-- ==== Sys2Proof/Word.lean ====
section
/-! DEFINITION. The word types: addresses and tags of `XLEN` = 32 bits (spec R8, decision D1), bytes, guest
register numbers. -/

namespace Sys2Proof

/-- An address, a tag or an instruction word: 32 bits (R8, R22, R90). -/
abbrev Word := BitVec 32

/-- One byte of an instruction (R60). -/
abbrev Byte := BitVec 8

/-- The number of a guest general register, 0 to 15 (R40). -/
abbrev Reg := BitVec 4

end Sys2Proof
end

