-- ==== Sys2Proof/Config.lean ====
section
/-! DEFINITION. Implementation parameters (spec R7, R8): the types of a configuration, the constants the spec takes,
the standard configurations of the three caches. -/

namespace Sys2Proof

/-- Replacement policy (R20). -/
inductive ReplPolicy where
  | roundRobin
  | random
deriving DecidableEq, Repr

/-- Allocation policy of stores (R20). -/
inductive AllocPolicy where
  | writeAllocate
  | noWriteAllocate
deriving DecidableEq, Repr

/-- The five configuration values of one cache (R7), the arguments of `init` (R130). -/
structure CacheConfig where
  size  : Nat
  assoc : Nat
  block : Nat
  repl  : ReplPolicy
  alloc : AllocPolicy
deriving DecidableEq, Repr

/-- `SEED0[c]` for the three caches (R8, R380): used only by a RANDOM cache. -/
structure Seeds where
  icache : Word
  dcache : Word
  l2     : Word
deriving DecidableEq, Repr

/-- The arguments of `BlockInit` (R110, R380). -/
structure BlockConfig where
  icache    : CacheConfig
  dcache    : CacheConfig
  l2        : CacheConfig
  seeds     : Seeds
  textStart : Word
  textEnd   : Word
  armEnable : Bool
deriving DecidableEq, Repr

/-- `XLEN`, the width of an address and of a tag (R8, decision D1). -/
def Config.xlen : Nat := 32

/-- `WORD_BYTES` (R8, decision D2). -/
def Config.wordBytes : Nat := 4

/-- `FP_COPROC`, the coprocessor number excluded from coprocessor classification (R8, decision D19). -/
def Config.fpCoproc : BitVec 4 := 0xA#4

/-- `CACHE_CTRL_COPROC`, the coprocessor number of the cache-control MCR (R8, decision D20). -/
def Config.cacheCtrlCoproc : BitVec 4 := 0xE#4

/-- The multiplier of the RANDOM policy's generator (R136). -/
def Config.lcgMultiplier : Word := 48271#32

/-- The free values of `cond`: what `cond` of the record in `cur` is after an InsnExec whose bytes are not one word. R105
gives the field 4 bits and R101 keeps it in that record, but R102 takes it from `w[31:28]` and there is no `w`; the spec
states no value (DESIGN CHOICE, log entry 14). The argument counts the free values taken. -/
opaque Config.freeCond : Nat → BitVec 4

/-- The default of the I-cache and of the D-cache (R7, R170). -/
def Config.firstLevel : CacheConfig :=
  { size := 32768, assoc := 4, block := 32, repl := .random, alloc := .noWriteAllocate }

/-- The default of the L2 (R7, R170). -/
def Config.secondLevel : CacheConfig :=
  { size := 524288, assoc := 8, block := 32, repl := .roundRobin, alloc := .writeAllocate }

/-- The standard block: the default caches (R170). DESIGN CHOICE, unsafe (log entry 5): the OPEN parameters `SEED0`,
`text_start`, `text_end`, `arm_enable` (R8) take the values of the conventions of 95_test_vectors.md. -/
def Config.standard : BlockConfig :=
  { icache := Config.firstLevel, dcache := Config.firstLevel, l2 := Config.secondLevel
    seeds := { icache := 1#32, dcache := 1#32, l2 := 1#32 }
    textStart := 0x8000#32, textEnd := 0x9000#32, armEnable := true }

end Sys2Proof
end

