-- ==== Sys2Proof/Syntax.lean ====
section
/-! DEFINITION. Syntax: the operand fields of each format (spec R94 to R99), the arguments of the engine commands
(R109) and of the host events (R110), `Instr` with one constructor per row of spec/opcode_table.json, and `Request`,
what the host puts on the block's two ports. -/

namespace Sys2Proof

/-- The three cache instances (R170), selected by `cache_select` 0, 1, 2 (R109). -/
inductive CacheId where
  | icache
  | dcache
  | l2
deriving DecidableEq, Repr

/-- The cache names of an injection plan: "icache", "dcache", "l2cache" (R110, R331). -/
inductive CacheName where
  | icache
  | dcache
  | l2cache
deriving DecidableEq, Repr

/-- The direction R or W of a memory event (R305). -/
inductive AccessDir where
  | read
  | write
deriving DecidableEq, Repr

/-- Fields of format `A32_LS_IMM` (R94); `B` and `L` are fixed by each row. -/
structure LsImm where
  cond  : BitVec 4
  p     : Bool
  u     : Bool
  w     : Bool
  rn    : Reg
  rt    : Reg
  imm12 : BitVec 12
deriving DecidableEq, Repr

/-- Fields of format `A32_LS_REG` (R94); `B` and `L` are fixed by each row. -/
structure LsReg where
  cond      : BitVec 4
  p         : Bool
  u         : Bool
  w         : Bool
  rn        : Reg
  rt        : Reg
  imm5      : BitVec 5
  shiftType : BitVec 2
  rm        : Reg
deriving DecidableEq, Repr

/-- Fields of the formats `A32_XLS_REG` (`i` false) and `A32_XLS_IMM` (`i` true) (R95): `hi` is `w[11:8]` (`imm4H`, or
ignored), `lo` is `w[3:0]` (`imm4L` or `Rm`); `op2` and `L` are fixed by each row. -/
structure Xls where
  cond : BitVec 4
  p    : Bool
  u    : Bool
  i    : Bool
  w    : Bool
  rn   : Reg
  rt   : Reg
  hi   : BitVec 4
  lo   : BitVec 4
deriving DecidableEq, Repr

/-- Fields of format `A32_SYNC` (R96): `ign` is `w[11:8]`, which no rule reads; `op` is fixed by each row. -/
structure Sync where
  cond : BitVec 4
  rn   : Reg
  rd   : Reg
  ign  : BitVec 4
  rm   : Reg
deriving DecidableEq, Repr

/-- Fields of format `A32_BLK` (R97); `L` is fixed by each row. -/
structure Blk where
  cond         : BitVec 4
  p            : Bool
  u            : Bool
  s            : Bool
  w            : Bool
  rn           : Reg
  registerList : BitVec 16
deriving DecidableEq, Repr

/-- Fields of format `A32_CP_LS` (R98); `L` is fixed by each row. -/
structure CpLs where
  cond   : BitVec 4
  p      : Bool
  u      : Bool
  d      : Bool
  w      : Bool
  rn     : Reg
  crd    : Reg
  coproc : BitVec 4
  imm8   : BitVec 8
deriving DecidableEq, Repr

/-- Fields of format `A32_CP_RT` (R99); `L` is fixed by each row. -/
structure CpRt where
  cond   : BitVec 4
  opc1   : BitVec 3
  crn    : Reg
  rt     : Reg
  coproc : BitVec 4
  opc2   : BitVec 3
  crm    : Reg
deriving DecidableEq, Repr

/-- The free fields of a cache-control MCR row: every other bit is fixed (R280). -/
structure CacheCtl where
  cond : BitVec 4
  rt   : Reg
deriving DecidableEq, Repr

/-- A word that is not a memory operation (R101): `cond` and the other 28 bits as they stand. -/
structure NotMem where
  cond : BitVec 4
  body : BitVec 28
deriving DecidableEq, Repr

/-- The instructions: one constructor per row of spec/opcode_table.json, in the table's order. -/
inductive Instr where
  /-- `STRT`, format `A32_LS_IMM`: match 0x04200000, mask 0x0F700000 (R202). -/
  | strtImm (f : LsImm)
  /-- `STRT`, format `A32_LS_REG`: match 0x06200000, mask 0x0F700010 (R202). -/
  | strtReg (f : LsReg)
  /-- `LDRT`, format `A32_LS_IMM`: match 0x04300000, mask 0x0F700000 (R206). -/
  | ldrtImm (f : LsImm)
  /-- `LDRT`, format `A32_LS_REG`: match 0x06300000, mask 0x0F700010 (R206). -/
  | ldrtReg (f : LsReg)
  /-- `STRBT`, format `A32_LS_IMM`: match 0x04600000, mask 0x0F700000 (R209). -/
  | strbtImm (f : LsImm)
  /-- `STRBT`, format `A32_LS_REG`: match 0x06600000, mask 0x0F700010 (R209). -/
  | strbtReg (f : LsReg)
  /-- `LDRBT`, format `A32_LS_IMM`: match 0x04700000, mask 0x0F700000 (R213). -/
  | ldrbtImm (f : LsImm)
  /-- `LDRBT`, format `A32_LS_REG`: match 0x06700000, mask 0x0F700010 (R213). -/
  | ldrbtReg (f : LsReg)
  /-- `STR_REG`, format `A32_LS_REG`: match 0x06000000, mask 0x0E500010 (R201). -/
  | strReg (f : LsReg)
  /-- `STR_IMM`, format `A32_LS_IMM`: match 0x04000000, mask 0x0E500000 (R200). -/
  | strImm (f : LsImm)
  /-- `LDR_REG`, format `A32_LS_REG`: match 0x06100000, mask 0x0E500010 (R205). -/
  | ldrReg (f : LsReg)
  /-- `LDR_LIT`, format `A32_LS_IMM`: match 0x041F0000, mask 0x0E5F0000 (R204). -/
  | ldrLit (f : LsImm)
  /-- `LDR_IMM`, format `A32_LS_IMM`: match 0x04100000, mask 0x0E500000 (R203). -/
  | ldrImm (f : LsImm)
  /-- `STRB_REG`, format `A32_LS_REG`: match 0x06400000, mask 0x0E500010 (R208). -/
  | strbReg (f : LsReg)
  /-- `STRB_IMM`, format `A32_LS_IMM`: match 0x04400000, mask 0x0E500000 (R207). -/
  | strbImm (f : LsImm)
  /-- `LDRB_REG`, format `A32_LS_REG`: match 0x06500000, mask 0x0E500010 (R212). -/
  | ldrbReg (f : LsReg)
  /-- `LDRB_LIT`, format `A32_LS_IMM`: match 0x045F0000, mask 0x0E5F0000 (R211). -/
  | ldrbLit (f : LsImm)
  /-- `LDRB_IMM`, format `A32_LS_IMM`: match 0x04500000, mask 0x0E500000 (R210). -/
  | ldrbImm (f : LsImm)
  /-- `NOT_MEM`, format `A32_MEDIA`: match 0x06000010, mask 0x0E000010 (R101). -/
  | notMemMedia (f : NotMem)
  /-- `SWP`, format `A32_SYNC`: match 0x01000090, mask 0x0FF000F0 (R240). -/
  | swp (f : Sync)
  /-- `SWPB`, format `A32_SYNC`: match 0x01400090, mask 0x0FF000F0 (R241). -/
  | swpb (f : Sync)
  /-- `STREX`, format `A32_SYNC`: match 0x01800090, mask 0x0FF000F0 (R242). -/
  | strex (f : Sync)
  /-- `LDREX`, format `A32_SYNC`: match 0x01900090, mask 0x0FF000F0 (R243). -/
  | ldrex (f : Sync)
  /-- `STREXD`, format `A32_SYNC`: match 0x01A00090, mask 0x0FF000F0 (R244). -/
  | strexd (f : Sync)
  /-- `LDREXD`, format `A32_SYNC`: match 0x01B00090, mask 0x0FF000F0 (R245). -/
  | ldrexd (f : Sync)
  /-- `STREXB`, format `A32_SYNC`: match 0x01C00090, mask 0x0FF000F0 (R246). -/
  | strexb (f : Sync)
  /-- `LDREXB`, format `A32_SYNC`: match 0x01D00090, mask 0x0FF000F0 (R247). -/
  | ldrexb (f : Sync)
  /-- `STREXH`, format `A32_SYNC`: match 0x01E00090, mask 0x0FF000F0 (R248). -/
  | strexh (f : Sync)
  /-- `LDREXH`, format `A32_SYNC`: match 0x01F00090, mask 0x0FF000F0 (R249). -/
  | ldrexh (f : Sync)
  /-- `NOT_MEM`, format `A32_DPMISC`: match 0x00000090, mask 0x0E0000F0 (R101). -/
  | notMemMultiply (f : NotMem)
  /-- `STRHT`, format `A32_XLS`: match 0x002000B0, mask 0x0F3000F0 (R218). -/
  | strht (f : Xls)
  /-- `LDRHT`, format `A32_XLS`: match 0x003000B0, mask 0x0F3000F0 (R222). -/
  | ldrht (f : Xls)
  /-- `LDRSBT`, format `A32_XLS`: match 0x003000D0, mask 0x0F3000F0 (R229). -/
  | ldrsbt (f : Xls)
  /-- `LDRSHT`, format `A32_XLS`: match 0x003000F0, mask 0x0F3000F0 (R235). -/
  | ldrsht (f : Xls)
  /-- `STRH_REG`, format `A32_XLS_REG`: match 0x000000B0, mask 0x0E5000F0 (R216). -/
  | strhReg (f : Xls)
  /-- `STRH_IMM`, format `A32_XLS_IMM`: match 0x004000B0, mask 0x0E5000F0 (R217). -/
  | strhImm (f : Xls)
  /-- `LDRH_REG`, format `A32_XLS_REG`: match 0x001000B0, mask 0x0E5000F0 (R219). -/
  | ldrhReg (f : Xls)
  /-- `LDRH_LIT`, format `A32_XLS_IMM`: match 0x005F00B0, mask 0x0E5F00F0 (R221). -/
  | ldrhLit (f : Xls)
  /-- `LDRH_IMM`, format `A32_XLS_IMM`: match 0x005000B0, mask 0x0E5000F0 (R220). -/
  | ldrhImm (f : Xls)
  /-- `LDRD_REG`, format `A32_XLS_REG`: match 0x000000D0, mask 0x0E5000F0 (R223). -/
  | ldrdReg (f : Xls)
  /-- `LDRD_LIT`, format `A32_XLS_IMM`: match 0x004F00D0, mask 0x0E5F00F0 (R225). -/
  | ldrdLit (f : Xls)
  /-- `LDRD_IMM`, format `A32_XLS_IMM`: match 0x004000D0, mask 0x0E5000F0 (R224). -/
  | ldrdImm (f : Xls)
  /-- `LDRSB_REG`, format `A32_XLS_REG`: match 0x001000D0, mask 0x0E5000F0 (R226). -/
  | ldrsbReg (f : Xls)
  /-- `LDRSB_LIT`, format `A32_XLS_IMM`: match 0x005F00D0, mask 0x0E5F00F0 (R228). -/
  | ldrsbLit (f : Xls)
  /-- `LDRSB_IMM`, format `A32_XLS_IMM`: match 0x005000D0, mask 0x0E5000F0 (R227). -/
  | ldrsbImm (f : Xls)
  /-- `STRD_REG`, format `A32_XLS_REG`: match 0x000000F0, mask 0x0E5000F0 (R230). -/
  | strdReg (f : Xls)
  /-- `STRD_IMM`, format `A32_XLS_IMM`: match 0x004000F0, mask 0x0E5000F0 (R231). -/
  | strdImm (f : Xls)
  /-- `LDRSH_REG`, format `A32_XLS_REG`: match 0x001000F0, mask 0x0E5000F0 (R232). -/
  | ldrshReg (f : Xls)
  /-- `LDRSH_LIT`, format `A32_XLS_IMM`: match 0x005F00F0, mask 0x0E5F00F0 (R234). -/
  | ldrshLit (f : Xls)
  /-- `LDRSH_IMM`, format `A32_XLS_IMM`: match 0x005000F0, mask 0x0E5000F0 (R233). -/
  | ldrshImm (f : Xls)
  /-- `NOT_MEM`, format `A32_DPMISC`: match 0x00000000, mask 0x0C000000 (R101). -/
  | notMemDataProc (f : NotMem)
  /-- `STM_USER`, format `A32_BLK`: match 0x08400000, mask 0x0E500000 (R270). -/
  | stmUser (f : Blk)
  /-- `LDM_EXRET`, format `A32_BLK`: match 0x08508000, mask 0x0E508000 (R272). -/
  | ldmExret (f : Blk)
  /-- `LDM_USER`, format `A32_BLK`: match 0x08500000, mask 0x0E500000 (R271). -/
  | ldmUser (f : Blk)
  /-- `POP_MULT`, format `A32_BLK`: match 0x08BD0000, mask 0x0FFF0000 (R264). -/
  | popMult (f : Blk)
  /-- `PUSH_MULT`, format `A32_BLK`: match 0x092D0000, mask 0x0FFF0000 (R266). -/
  | pushMult (f : Blk)
  /-- `STMDA`, format `A32_BLK`: match 0x08000000, mask 0x0FD00000 (R260). -/
  | stmda (f : Blk)
  /-- `LDMDA`, format `A32_BLK`: match 0x08100000, mask 0x0FD00000 (R261). -/
  | ldmda (f : Blk)
  /-- `STMIA`, format `A32_BLK`: match 0x08800000, mask 0x0FD00000 (R262). -/
  | stmia (f : Blk)
  /-- `LDMIA`, format `A32_BLK`: match 0x08900000, mask 0x0FD00000 (R263). -/
  | ldmia (f : Blk)
  /-- `STMDB`, format `A32_BLK`: match 0x09000000, mask 0x0FD00000 (R265). -/
  | stmdb (f : Blk)
  /-- `LDMDB`, format `A32_BLK`: match 0x09100000, mask 0x0FD00000 (R267). -/
  | ldmdb (f : Blk)
  /-- `STMIB`, format `A32_BLK`: match 0x09800000, mask 0x0FD00000 (R268). -/
  | stmib (f : Blk)
  /-- `LDMIB`, format `A32_BLK`: match 0x09900000, mask 0x0FD00000 (R269). -/
  | ldmib (f : Blk)
  /-- `NOT_MEM`, format `A32_BRANCH`: match 0x0A000000, mask 0x0E000000 (R101). -/
  | notMemBranch (f : NotMem)
  /-- `NOT_MEM`, format `A32_CP`: match 0x0C000A00, mask 0x0C000F00 (R101). -/
  | notMemFpCoproc (f : NotMem)
  /-- `NOT_MEM`, format `A32_CP`: match 0x0C000000, mask 0x0FA00000 (R101). -/
  | notMemCoprocHole (f : NotMem)
  /-- `CP_STR`, format `A32_CP_LS`: match 0x0C000000, mask 0x0E100000 (R274). -/
  | cpStr (f : CpLs)
  /-- `CP_LD_LIT`, format `A32_CP_LS`: match 0x0C1F0000, mask 0x0E1F0000 (R276). -/
  | cpLdLit (f : CpLs)
  /-- `CP_LD_IMM`, format `A32_CP_LS`: match 0x0C100000, mask 0x0E100000 (R275). -/
  | cpLdImm (f : CpLs)
  /-- `DCISW`, format `A32_CP_RT`: match 0x0E070E56, mask 0x0FFF0FFF (R281). -/
  | dcisw (f : CacheCtl)
  /-- `ICIALLU`, format `A32_CP_RT`: match 0x0E070E15, mask 0x0FFF0FFF (R282). -/
  | iciallu (f : CacheCtl)
  /-- `CP_MCR`, format `A32_CP_RT`: match 0x0E000010, mask 0x0F100010 (R277). -/
  | cpMcr (f : CpRt)
  /-- `CP_MRC`, format `A32_CP_RT`: match 0x0E100010, mask 0x0F100010 (R278). -/
  | cpMrc (f : CpRt)
  /-- `NOT_MEM`, format `A32_ANY`: match 0x00000000, mask 0x00000000 (R101). -/
  | notMemOther (f : NotMem)
  /-- Engine command `init`, `op` 0 (R109, R130). -/
  | init (c : CacheId) (cfg : CacheConfig)
  /-- Engine command `load`, `op` 1 (R109, R137). -/
  | load (c : CacheId) (addr : Word)
  /-- Engine command `store`, `op` 2 (R109, R138). -/
  | store (c : CacheId) (addr : Word)
  /-- Engine command `invalidate_block`, `op` 3 (R109, R139). -/
  | invalidateBlock (c : CacheId) (row way : Nat)
  /-- Engine command `invalidate_all`, `op` 4 (R109, R140). -/
  | invalidateAll (c : CacheId)
  /-- Engine command `get_addr`, `op` 5 (R109, R141). -/
  | getAddr (c : CacheId) (row way : Nat)
  /-- Engine command `is_block_valid`, `op` 6 (R109, R142). -/
  | isBlockValid (c : CacheId) (row way : Nat)
  /-- Engine command `validate_injection`, `op` 7 (R109, R143). -/
  | validateInjection (c : CacheId) (row way word : Nat)
  /-- Engine command `stats`, `op` 8 (R109, R144). -/
  | stats (c : CacheId)
  /-- Engine command `teardown`, `op` 9 (R109, R145). -/
  | teardown (c : CacheId)
  /-- Host event `BlockInit`, code 0 (R110, R380). -/
  | blockInit (cfg : BlockConfig)
  /-- Host event `InsnExec`, code 1 (R110, R301). -/
  | insnExec (vaddr : Word) (bytes : List Byte) (gpr : Vector Word 16)
  /-- Host event `MemAccess`, code 2 (R110, R305). -/
  | memAccess (vaddr : Word) (dir : AccessDir)
  /-- Host event `LoadPlan`, code 3 (R110, R331). -/
  | loadPlan (sleepCycles : Nat) (name : CacheName) (row way word : Nat)
  /-- Host event `Teardown`, code 4 (R110, R384). -/
  | blockTeardown
deriving DecidableEq, Repr

/-- The argument lines of the command port (R109): each command reads those it names. -/
structure CommandArgs where
  config : CacheConfig := { size := 0, assoc := 0, block := 0, repl := .roundRobin, alloc := .writeAllocate }
  addr   : Word := 0#32
  row    : Nat := 0
  way    : Nat := 0
  word   : Nat := 0
deriving DecidableEq, Repr

/-- The argument lines of the event port (R110): each event reads those it names. -/
structure EventArgs where
  config : BlockConfig :=
    { icache := { size := 0, assoc := 0, block := 0, repl := .roundRobin, alloc := .writeAllocate }
      dcache := { size := 0, assoc := 0, block := 0, repl := .roundRobin, alloc := .writeAllocate }
      l2     := { size := 0, assoc := 0, block := 0, repl := .roundRobin, alloc := .writeAllocate }
      seeds  := { icache := 0#32, dcache := 0#32, l2 := 0#32 }
      textStart := 0#32, textEnd := 0#32, armEnable := false }
  vaddr       : Word := 0#32
  bytes       : List Byte := []
  gpr         : Vector Word 16 := Vector.replicate 16 0#32
  dir         : AccessDir := .read
  sleepCycles : Nat := 0
  name        : CacheName := .icache
  row         : Nat := 0
  way         : Nat := 0
  word        : Nat := 0
deriving DecidableEq, Repr

/-- One request of the host: a command code `cache_select[1:0] : op[3:0]` (R109) or an event code (R110), with its
arguments. -/
inductive Request where
  | command (code : BitVec 6) (args : CommandArgs)
  | event (code : BitVec 3) (args : EventArgs)
deriving DecidableEq, Repr

end Sys2Proof
end

