-- ==== Sys2Proof/WellFormed.lean ====
section
/-! DEFINITION. Well-formedness: the condition each row of the opcode table puts on its operands, as the *Condition*
lines of spec R200 to R282 give it and in the table's priority order (R100). -/

namespace Sys2Proof

/-- Bit `n` of the word, `n < 28` (R9). -/
def NotMem.bit (f : NotMem) (n : Nat) : Bool := f.body.getLsbD n

/-- `top = w[27:25]` (R92, R93). -/
def NotMem.top (f : NotMem) : BitVec 3 := f.body.extractLsb' 25 3

/-- `coproc = w[11:8]` (R92). -/
def NotMem.coproc (f : NotMem) : BitVec 4 := f.body.extractLsb' 8 4

/-- `w[23:20]` is one of the ten synchronization values 0, 4, 8 to 15 (R96). -/
def NotMem.isSyncOp (f : NotMem) : Bool :=
  f.bit 23 || (!f.bit 21 && !f.bit 20)

/-- The operand set of DCISW or of ICIALLU (R280). -/
def CpRt.isCacheControl (f : CpRt) : Bool :=
  f.coproc == Config.cacheCtrlCoproc && f.opc1 == 0#3 && f.crn == 7#4
    && ((f.crm == 6#4 && f.opc2 == 2#3) || (f.crm == 5#4 && f.opc2 == 0#3))

/-- The instruction's operands are those its row of the opcode table takes. -/
def WellFormed (i : Instr) : Bool :=
  match i with
  | .strtImm f => !f.p && f.w
  | .strtReg f => !f.p && f.w
  | .ldrtImm f => !f.p && f.w
  | .ldrtReg f => !f.p && f.w
  | .strbtImm f => !f.p && f.w
  | .strbtReg f => !f.p && f.w
  | .ldrbtImm f => !f.p && f.w
  | .ldrbtReg f => !f.p && f.w
  | .strReg f => !(!f.p && f.w)
  | .strImm f => !(!f.p && f.w)
  | .ldrReg f => !(!f.p && f.w)
  | .ldrLit f => !(!f.p && f.w) && f.rn == 15#4
  | .ldrImm f => !(!f.p && f.w) && f.rn != 15#4
  | .strbReg f => !(!f.p && f.w)
  | .strbImm f => !(!f.p && f.w)
  | .ldrbReg f => !(!f.p && f.w)
  | .ldrbLit f => !(!f.p && f.w) && f.rn == 15#4
  | .ldrbImm f => !(!f.p && f.w) && f.rn != 15#4
  | .notMemMedia f => f.top == 0b011#3 && f.bit 4
  | .swp _ => true
  | .swpb _ => true
  | .strex _ => true
  | .ldrex _ => true
  | .strexd _ => true
  | .ldrexd _ => true
  | .strexb _ => true
  | .ldrexb _ => true
  | .strexh _ => true
  | .ldrexh _ => true
  | .notMemMultiply f => f.top == 0b000#3 && f.body.extractLsb' 4 4 == 0b1001#4 && !(f.bit 24 && f.isSyncOp)
  | .strht f => !f.p && f.w
  | .ldrht f => !f.p && f.w
  | .ldrsbt f => !f.p && f.w
  | .ldrsht f => !f.p && f.w
  | .strhReg f => !f.i && !(!f.p && f.w)
  | .strhImm f => f.i && !(!f.p && f.w)
  | .ldrhReg f => !f.i && !(!f.p && f.w)
  | .ldrhLit f => f.i && !(!f.p && f.w) && f.rn == 15#4
  | .ldrhImm f => f.i && !(!f.p && f.w) && f.rn != 15#4
  | .ldrdReg f => !f.i
  | .ldrdLit f => f.i && f.rn == 15#4
  | .ldrdImm f => f.i && f.rn != 15#4
  | .ldrsbReg f => !f.i && !(!f.p && f.w)
  | .ldrsbLit f => f.i && !(!f.p && f.w) && f.rn == 15#4
  | .ldrsbImm f => f.i && !(!f.p && f.w) && f.rn != 15#4
  | .strdReg f => !f.i
  | .strdImm f => f.i
  | .ldrshReg f => !f.i && !(!f.p && f.w)
  | .ldrshLit f => f.i && !(!f.p && f.w) && f.rn == 15#4
  | .ldrshImm f => f.i && !(!f.p && f.w) && f.rn != 15#4
  | .notMemDataProc f => f.top == 0b001#3 || (f.top == 0b000#3 && !(f.bit 7 && f.bit 4))
  | .stmUser f => f.s
  | .ldmExret f => f.s && f.registerList.getLsbD 15
  | .ldmUser f => f.s && !f.registerList.getLsbD 15
  | .popMult f => !f.p && f.u && !f.s && f.w && f.rn == 13#4
  | .pushMult f => f.p && !f.u && !f.s && f.w && f.rn == 13#4
  | .stmda f => !f.p && !f.u && !f.s
  | .ldmda f => !f.p && !f.u && !f.s
  | .stmia f => !f.p && f.u && !f.s
  | .ldmia f => !f.p && f.u && !f.s && !(f.w && f.rn == 13#4)
  | .stmdb f => f.p && !f.u && !f.s && !(f.w && f.rn == 13#4)
  | .ldmdb f => f.p && !f.u && !f.s
  | .stmib f => f.p && f.u && !f.s
  | .ldmib f => f.p && f.u && !f.s
  | .notMemBranch f => f.top == 0b101#3
  | .notMemFpCoproc f => f.body.extractLsb' 26 2 == 0b11#2 && f.coproc == Config.fpCoproc
  | .notMemCoprocHole f => f.top == 0b110#3 && !f.bit 24 && !f.bit 23 && !f.bit 21 && f.coproc != Config.fpCoproc
  | .cpStr f => f.coproc != Config.fpCoproc && (f.p || f.u || f.w)
  | .cpLdLit f => f.coproc != Config.fpCoproc && (f.p || f.u || f.w) && f.rn == 15#4
  | .cpLdImm f => f.coproc != Config.fpCoproc && (f.p || f.u || f.w) && f.rn != 15#4
  | .dcisw _ => true
  | .iciallu _ => true
  | .cpMcr f => f.coproc != Config.fpCoproc && !f.isCacheControl
  | .cpMrc f => f.coproc != Config.fpCoproc
  | .notMemOther f => f.top == 0b111#3 && (f.bit 24 || !f.bit 4) && f.coproc != Config.fpCoproc
  | .init _ _ => true
  | .load _ _ => true
  | .store _ _ => true
  | .invalidateBlock _ _ _ => true
  | .invalidateAll _ => true
  | .getAddr _ _ _ => true
  | .isBlockValid _ _ _ => true
  | .validateInjection _ _ _ _ => true
  | .stats _ => true
  | .teardown _ => true
  | .blockInit _ => true
  | .insnExec _ bytes _ => bytes.length != 4  -- four bytes are one of the word rows above (R91)
  | .memAccess _ _ => true
  | .loadPlan _ _ _ _ _ => true
  | .blockTeardown => true

end Sys2Proof
end

