-- ==== Sys2Proof/Decode.lean ====
section
/-! DEFINITION. The decoder and the encoder. Words: spec R90 to R100, by the tests of the rules of 42 and 43; requests:
the command numbering of R109 and the event numbering of R110. `opcodeTable` is spec/opcode_table.json, whose first
matching row is the same function (R100). -/

namespace Sys2Proof

/-- The word of four bytes in increasing address order (R60, R90). -/
def wordOfBytes (b0 b1 b2 b3 : Byte) : Word := b3 ++ b2 ++ b1 ++ b0

/-- The four bytes of a word, lowest address first (R60). -/
def bytesOfWord (w : Word) : List Byte :=
  [w.extractLsb' 0 8, w.extractLsb' 8 8, w.extractLsb' 16 8, w.extractLsb' 24 8]

/-! ### Fields of the formats (R92, R94 to R99) -/

/-- The fields of `A32_LS_IMM` (R94). -/
def LsImm.ofWord (w : Word) : LsImm :=
  { cond := w.extractLsb' 28 4, p := w.getLsbD 24, u := w.getLsbD 23, w := w.getLsbD 21
    rn := w.extractLsb' 16 4, rt := w.extractLsb' 12 4, imm12 := w.extractLsb' 0 12 }

/-- The fields of `A32_LS_REG` (R94). -/
def LsReg.ofWord (w : Word) : LsReg :=
  { cond := w.extractLsb' 28 4, p := w.getLsbD 24, u := w.getLsbD 23, w := w.getLsbD 21
    rn := w.extractLsb' 16 4, rt := w.extractLsb' 12 4
    imm5 := w.extractLsb' 7 5, shiftType := w.extractLsb' 5 2, rm := w.extractLsb' 0 4 }

/-- The fields of `A32_XLS_REG` and `A32_XLS_IMM` (R95). -/
def Xls.ofWord (w : Word) : Xls :=
  { cond := w.extractLsb' 28 4, p := w.getLsbD 24, u := w.getLsbD 23, i := w.getLsbD 22, w := w.getLsbD 21
    rn := w.extractLsb' 16 4, rt := w.extractLsb' 12 4, hi := w.extractLsb' 8 4, lo := w.extractLsb' 0 4 }

/-- The fields of `A32_SYNC` (R96). -/
def Sync.ofWord (w : Word) : Sync :=
  { cond := w.extractLsb' 28 4, rn := w.extractLsb' 16 4, rd := w.extractLsb' 12 4
    ign := w.extractLsb' 8 4, rm := w.extractLsb' 0 4 }

/-- The fields of `A32_BLK` (R97). -/
def Blk.ofWord (w : Word) : Blk :=
  { cond := w.extractLsb' 28 4, p := w.getLsbD 24, u := w.getLsbD 23, s := w.getLsbD 22, w := w.getLsbD 21
    rn := w.extractLsb' 16 4, registerList := w.extractLsb' 0 16 }

/-- The fields of `A32_CP_LS` (R98). -/
def CpLs.ofWord (w : Word) : CpLs :=
  { cond := w.extractLsb' 28 4, p := w.getLsbD 24, u := w.getLsbD 23, d := w.getLsbD 22, w := w.getLsbD 21
    rn := w.extractLsb' 16 4, crd := w.extractLsb' 12 4, coproc := w.extractLsb' 8 4, imm8 := w.extractLsb' 0 8 }

/-- The fields of `A32_CP_RT` (R99). -/
def CpRt.ofWord (w : Word) : CpRt :=
  { cond := w.extractLsb' 28 4, opc1 := w.extractLsb' 21 3, crn := w.extractLsb' 16 4, rt := w.extractLsb' 12 4
    coproc := w.extractLsb' 8 4, opc2 := w.extractLsb' 5 3, crm := w.extractLsb' 0 4 }

/-- `cond` and the rest of a word that is not a memory operation (R101). -/
def NotMem.ofWord (w : Word) : NotMem :=
  { cond := w.extractLsb' 28 4, body := w.extractLsb' 0 28 }

/-! ### Decoding a word (R93, R100): every 32-bit word is some row -/

/-- `w[27:25] = 010` (R94, R190): unprivileged first, then literal, else immediate. -/
def decodeRegularImm (w : Word) : Instr :=
  let f := LsImm.ofWord w
  let byte := w.getLsbD 22
  let load := w.getLsbD 20
  if !f.p && f.w then
    match load, byte with
    | false, false => .strtImm f
    | true,  false => .ldrtImm f
    | false, true  => .strbtImm f
    | true,  true  => .ldrbtImm f
  else
    match load, byte with
    | false, false => .strImm f
    | false, true  => .strbImm f
    | true,  false => if f.rn == 15#4 then .ldrLit f else .ldrImm f
    | true,  true  => if f.rn == 15#4 then .ldrbLit f else .ldrbImm f

/-- `w[27:25] = 011`, `w[4] = 0` (R94, R190): unprivileged first, else register. -/
def decodeRegularReg (w : Word) : Instr :=
  let f := LsReg.ofWord w
  let byte := w.getLsbD 22
  let load := w.getLsbD 20
  if !f.p && f.w then
    match load, byte with
    | false, false => .strtReg f
    | true,  false => .ldrtReg f
    | false, true  => .strbtReg f
    | true,  true  => .ldrbtReg f
  else
    match load, byte with
    | false, false => .strReg f
    | true,  false => .ldrReg f
    | false, true  => .strbReg f
    | true,  true  => .ldrbReg f

/-- `w[27:24] = 0001`, `w[7:4] = 1001` (R96, R239): the values of `w[23:20]` without a name are NOT_MEM. -/
def decodeSync (w : Word) : Instr :=
  let f := Sync.ofWord w
  let op := w.extractLsb' 20 4
  if op = 0x0#4 then .swp f
  else if op = 0x4#4 then .swpb f
  else if op = 0x8#4 then .strex f
  else if op = 0x9#4 then .ldrex f
  else if op = 0xA#4 then .strexd f
  else if op = 0xB#4 then .ldrexd f
  else if op = 0xC#4 then .strexb f
  else if op = 0xD#4 then .ldrexb f
  else if op = 0xE#4 then .strexh f
  else if op = 0xF#4 then .ldrexh f
  else .notMemMultiply (NotMem.ofWord w)

/-- `w[27:25] = 000`, `w[7] = w[4] = 1`, `op2 = w[6:5]` not 00 (R95, R215). -/
def decodeExtra (w : Word) : Instr :=
  let f := Xls.ofWord w
  let unprivileged := !f.p && f.w
  let literal := f.rn == 15#4
  if w.extractLsb' 5 2 = 0b01#2 then
    match w.getLsbD 20 with
    | false => if unprivileged then .strht f else if !f.i then .strhReg f else .strhImm f
    | true =>
      if unprivileged then .ldrht f else if !f.i then .ldrhReg f
      else if literal then .ldrhLit f else .ldrhImm f
  else if w.extractLsb' 5 2 = 0b10#2 then
    match w.getLsbD 20 with
    | false => if !f.i then .ldrdReg f else if literal then .ldrdLit f else .ldrdImm f
    | true =>
      if unprivileged then .ldrsbt f else if !f.i then .ldrsbReg f
      else if literal then .ldrsbLit f else .ldrsbImm f
  else
    match w.getLsbD 20 with
    | false => if !f.i then .strdReg f else .strdImm f
    | true =>
      if unprivileged then .ldrsht f else if !f.i then .ldrshReg f
      else if literal then .ldrshLit f else .ldrshImm f

/-- `w[27:25] = 000` (R93): extra, synchronization, multiply or data-processing (R95, R96, R250). -/
def decodeZero (w : Word) : Instr :=
  if w.getLsbD 7 && w.getLsbD 4 then
    if w.extractLsb' 5 2 = 0b00#2 then
      if w.getLsbD 24 then decodeSync w else .notMemMultiply (NotMem.ofWord w)
    else decodeExtra w
  else .notMemDataProc (NotMem.ofWord w)

/-- `w[27:25] = 100` (R97, R259): `S` first, then POP and PUSH, then `(P, U)`. -/
def decodeBlock (w : Word) : Instr :=
  let f := Blk.ofWord w
  match f.s, w.getLsbD 20 with
  | true, false => .stmUser f
  | true, true => if f.registerList.getLsbD 15 then .ldmExret f else .ldmUser f
  | false, false =>
    match f.p, f.u with
    | false, false => .stmda f
    | false, true  => .stmia f
    | true,  false => if f.w && f.rn == 13#4 then .pushMult f else .stmdb f
    | true,  true  => .stmib f
  | false, true =>
    match f.p, f.u with
    | false, false => .ldmda f
    | false, true  => if f.w && f.rn == 13#4 then .popMult f else .ldmia f
    | true,  false => .ldmdb f
    | true,  true  => .ldmib f

/-- `w[27:25] = 110`, `coproc` not `FP_COPROC` (R98, R273). -/
def decodeCoprocLs (w : Word) : Instr :=
  let f := CpLs.ofWord w
  if !f.p && !f.u && !f.w then .notMemCoprocHole (NotMem.ofWord w)
  else if !w.getLsbD 20 then .cpStr f
  else if f.rn == 15#4 then .cpLdLit f
  else .cpLdImm f

/-- `w[27:24] = 1110`, `w[4] = 1`, `coproc` not `FP_COPROC` (R99, R273); an MCR with the operand set of DCISW or of
ICIALLU is that row (R280 to R282). -/
def decodeCoprocRt (w : Word) : Instr :=
  let f := CpRt.ofWord w
  if w.getLsbD 20 then .cpMrc f
  else if f.coproc == Config.cacheCtrlCoproc && f.opc1 == 0#3 && f.crn == 7#4 && f.crm == 6#4 && f.opc2 == 2#3 then
    .dcisw { cond := f.cond, rt := f.rt }
  else if f.coproc == Config.cacheCtrlCoproc && f.opc1 == 0#3 && f.crn == 7#4 && f.crm == 5#4 && f.opc2 == 0#3 then
    .iciallu { cond := f.cond, rt := f.rt }
  else .cpMcr f

/-- `w[27:26] = 11` (R98, R99, R273). -/
def decodeCoproc (w : Word) : Instr :=
  if w.extractLsb' 8 4 == Config.fpCoproc then .notMemFpCoproc (NotMem.ofWord w)
  else if !w.getLsbD 25 then decodeCoprocLs w
  else if w.getLsbD 24 || !w.getLsbD 4 then .notMemOther (NotMem.ofWord w)
  else decodeCoprocRt w

/-- The row of any 32-bit word: no word is refused (R93, R100, R107); `cond` takes no part (R102). -/
def decodeWord (w : Word) : Instr :=
  let top := w.extractLsb' 25 3
  if top = 0b000#3 then decodeZero w
  else if top = 0b001#3 then .notMemDataProc (NotMem.ofWord w)
  else if top = 0b010#3 then decodeRegularImm w
  else if top = 0b011#3 then
    if w.getLsbD 4 then .notMemMedia (NotMem.ofWord w) else decodeRegularReg w
  else if top = 0b100#3 then decodeBlock w
  else if top = 0b101#3 then .notMemBranch (NotMem.ofWord w)
  else decodeCoproc w

/-! ### Decoding a request (R109, R110) -/

/-- What decoding a request gives: an instruction, or a reserved code by name. -/
inductive Decoded where
  | instr (i : Instr)
  /-- A command with `op` 10 to 15 or `cache_select` 3 (R109). -/
  | reservedCommand (code : BitVec 6)
  /-- An event code 5 to 7 (R110). -/
  | reservedEvent (code : BitVec 3)
deriving DecidableEq, Repr

/-- The cache of `cache_select` (R109): 3 is reserved. -/
def cacheOfSelect (sel : BitVec 2) : Option CacheId :=
  if sel = 0#2 then some .icache
  else if sel = 1#2 then some .dcache
  else if sel = 2#2 then some .l2
  else none

/-- The command of `op` on cache `c` (R109): 10 to 15 are reserved. -/
def commandOfOp (op : BitVec 4) (c : CacheId) (a : CommandArgs) : Option Instr :=
  if op = 0#4 then some (.init c a.config)
  else if op = 1#4 then some (.load c a.addr)
  else if op = 2#4 then some (.store c a.addr)
  else if op = 3#4 then some (.invalidateBlock c a.row a.way)
  else if op = 4#4 then some (.invalidateAll c)
  else if op = 5#4 then some (.getAddr c a.row a.way)
  else if op = 6#4 then some (.isBlockValid c a.row a.way)
  else if op = 7#4 then some (.validateInjection c a.row a.way a.word)
  else if op = 8#4 then some (.stats c)
  else if op = 9#4 then some (.teardown c)
  else none

/-- A command code `cache_select[1:0] : op[3:0]` (R109). -/
def decodeCommand (code : BitVec 6) (a : CommandArgs) : Decoded :=
  match cacheOfSelect (code.extractLsb' 4 2) with
  | none => .reservedCommand code
  | some c =>
    match commandOfOp (code.extractLsb' 0 4) c a with
    | none => .reservedCommand code
    | some i => .instr i

/-- The instruction of an InsnExec event: four bytes are a word (R60, R90), any other number is not decoded (R91). -/
def decodeInsnExec (a : EventArgs) : Instr :=
  match a.bytes with
  | [b0, b1, b2, b3] => decodeWord (wordOfBytes b0 b1 b2 b3)
  | bytes => .insnExec a.vaddr bytes a.gpr

/-- An event code (R110). -/
def decodeEvent (code : BitVec 3) (a : EventArgs) : Decoded :=
  if code = 0#3 then .instr (.blockInit a.config)
  else if code = 1#3 then .instr (decodeInsnExec a)
  else if code = 2#3 then .instr (.memAccess a.vaddr a.dir)
  else if code = 3#3 then .instr (.loadPlan a.sleepCycles a.name a.row a.way a.word)
  else if code = 4#3 then .instr .blockTeardown
  else .reservedEvent code

/-- The decoder, total on every request. -/
def decode (q : Request) : Decoded :=
  match q with
  | .command code a => decodeCommand code a
  | .event code a => decodeEvent code a

/-! ### Encoding (R94 to R99, R109, R110) -/

/-- `A32_LS_IMM` with `B` and `L` (R94). -/
def LsImm.word (byte load : Bool) (f : LsImm) : Word :=
  f.cond ++ 0b010#3 ++ BitVec.ofBool f.p ++ BitVec.ofBool f.u ++ BitVec.ofBool byte ++ BitVec.ofBool f.w
    ++ BitVec.ofBool load ++ f.rn ++ f.rt ++ f.imm12

/-- `A32_LS_REG` with `B` and `L` (R94). -/
def LsReg.word (byte load : Bool) (f : LsReg) : Word :=
  f.cond ++ 0b011#3 ++ BitVec.ofBool f.p ++ BitVec.ofBool f.u ++ BitVec.ofBool byte ++ BitVec.ofBool f.w
    ++ BitVec.ofBool load ++ f.rn ++ f.rt ++ f.imm5 ++ f.shiftType ++ 0#1 ++ f.rm

/-- `A32_XLS_REG` or `A32_XLS_IMM` with `op2` and `L` (R95). -/
def Xls.word (op2 : BitVec 2) (load : Bool) (f : Xls) : Word :=
  f.cond ++ 0b000#3 ++ BitVec.ofBool f.p ++ BitVec.ofBool f.u ++ BitVec.ofBool f.i ++ BitVec.ofBool f.w
    ++ BitVec.ofBool load ++ f.rn ++ f.rt ++ f.hi ++ 1#1 ++ op2 ++ 1#1 ++ f.lo

/-- `A32_SYNC` with `op` (R96). -/
def Sync.word (op : BitVec 4) (f : Sync) : Word :=
  f.cond ++ 0b0001#4 ++ op ++ f.rn ++ f.rd ++ f.ign ++ 0b1001#4 ++ f.rm

/-- `A32_BLK` with `L` (R97). -/
def Blk.word (load : Bool) (f : Blk) : Word :=
  f.cond ++ 0b100#3 ++ BitVec.ofBool f.p ++ BitVec.ofBool f.u ++ BitVec.ofBool f.s ++ BitVec.ofBool f.w
    ++ BitVec.ofBool load ++ f.rn ++ f.registerList

/-- `A32_CP_LS` with `L` (R98). -/
def CpLs.word (load : Bool) (f : CpLs) : Word :=
  f.cond ++ 0b110#3 ++ BitVec.ofBool f.p ++ BitVec.ofBool f.u ++ BitVec.ofBool f.d ++ BitVec.ofBool f.w
    ++ BitVec.ofBool load ++ f.rn ++ f.crd ++ f.coproc ++ f.imm8

/-- `A32_CP_RT` with `L` (R99). -/
def CpRt.word (load : Bool) (f : CpRt) : Word :=
  f.cond ++ 0b1110#4 ++ f.opc1 ++ BitVec.ofBool load ++ f.crn ++ f.rt ++ f.coproc ++ f.opc2 ++ 1#1 ++ f.crm

/-- The MCR operand set of DCISW (R281). -/
def CacheCtl.asDcisw (f : CacheCtl) : CpRt :=
  { cond := f.cond, opc1 := 0#3, crn := 7#4, rt := f.rt, coproc := Config.cacheCtrlCoproc, opc2 := 2#3, crm := 6#4 }

/-- The MCR operand set of ICIALLU (R282). -/
def CacheCtl.asIciallu (f : CacheCtl) : CpRt :=
  { cond := f.cond, opc1 := 0#3, crn := 7#4, rt := f.rt, coproc := Config.cacheCtrlCoproc, opc2 := 0#3, crm := 5#4 }

/-- A word that is not a memory operation, as it stands. -/
def NotMem.word (f : NotMem) : Word := f.cond ++ f.body

/-- The word of an instruction; the commands and the events have none. -/
def encodeWord (i : Instr) : Option Word :=
  match i with
  | .strtImm f => some (f.word false false)
  | .strtReg f => some (f.word false false)
  | .ldrtImm f => some (f.word false true)
  | .ldrtReg f => some (f.word false true)
  | .strbtImm f => some (f.word true false)
  | .strbtReg f => some (f.word true false)
  | .ldrbtImm f => some (f.word true true)
  | .ldrbtReg f => some (f.word true true)
  | .strReg f => some (f.word false false)
  | .strImm f => some (f.word false false)
  | .ldrReg f => some (f.word false true)
  | .ldrLit f => some (f.word false true)
  | .ldrImm f => some (f.word false true)
  | .strbReg f => some (f.word true false)
  | .strbImm f => some (f.word true false)
  | .ldrbReg f => some (f.word true true)
  | .ldrbLit f => some (f.word true true)
  | .ldrbImm f => some (f.word true true)
  | .notMemMedia f => some (f.word)
  | .swp f => some (f.word 0x0#4)
  | .swpb f => some (f.word 0x4#4)
  | .strex f => some (f.word 0x8#4)
  | .ldrex f => some (f.word 0x9#4)
  | .strexd f => some (f.word 0xA#4)
  | .ldrexd f => some (f.word 0xB#4)
  | .strexb f => some (f.word 0xC#4)
  | .ldrexb f => some (f.word 0xD#4)
  | .strexh f => some (f.word 0xE#4)
  | .ldrexh f => some (f.word 0xF#4)
  | .notMemMultiply f => some (f.word)
  | .strht f => some (f.word 0b01#2 false)
  | .ldrht f => some (f.word 0b01#2 true)
  | .ldrsbt f => some (f.word 0b10#2 true)
  | .ldrsht f => some (f.word 0b11#2 true)
  | .strhReg f => some (f.word 0b01#2 false)
  | .strhImm f => some (f.word 0b01#2 false)
  | .ldrhReg f => some (f.word 0b01#2 true)
  | .ldrhLit f => some (f.word 0b01#2 true)
  | .ldrhImm f => some (f.word 0b01#2 true)
  | .ldrdReg f => some (f.word 0b10#2 false)
  | .ldrdLit f => some (f.word 0b10#2 false)
  | .ldrdImm f => some (f.word 0b10#2 false)
  | .ldrsbReg f => some (f.word 0b10#2 true)
  | .ldrsbLit f => some (f.word 0b10#2 true)
  | .ldrsbImm f => some (f.word 0b10#2 true)
  | .strdReg f => some (f.word 0b11#2 false)
  | .strdImm f => some (f.word 0b11#2 false)
  | .ldrshReg f => some (f.word 0b11#2 true)
  | .ldrshLit f => some (f.word 0b11#2 true)
  | .ldrshImm f => some (f.word 0b11#2 true)
  | .notMemDataProc f => some (f.word)
  | .stmUser f => some (f.word false)
  | .ldmExret f => some (f.word true)
  | .ldmUser f => some (f.word true)
  | .popMult f => some (f.word true)
  | .pushMult f => some (f.word false)
  | .stmda f => some (f.word false)
  | .ldmda f => some (f.word true)
  | .stmia f => some (f.word false)
  | .ldmia f => some (f.word true)
  | .stmdb f => some (f.word false)
  | .ldmdb f => some (f.word true)
  | .stmib f => some (f.word false)
  | .ldmib f => some (f.word true)
  | .notMemBranch f => some (f.word)
  | .notMemFpCoproc f => some (f.word)
  | .notMemCoprocHole f => some (f.word)
  | .cpStr f => some (f.word false)
  | .cpLdLit f => some (f.word true)
  | .cpLdImm f => some (f.word true)
  | .dcisw f => some (f.asDcisw.word false)
  | .iciallu f => some (f.asIciallu.word false)
  | .cpMcr f => some (f.word false)
  | .cpMrc f => some (f.word true)
  | .notMemOther f => some (f.word)
  | .init _ _ => none
  | .load _ _ => none
  | .store _ _ => none
  | .invalidateBlock _ _ _ => none
  | .invalidateAll _ => none
  | .getAddr _ _ _ => none
  | .isBlockValid _ _ _ => none
  | .validateInjection _ _ _ _ => none
  | .stats _ => none
  | .teardown _ => none
  | .blockInit _ => none
  | .insnExec _ _ _ => none
  | .memAccess _ _ => none
  | .loadPlan _ _ _ _ _ => none
  | .blockTeardown => none

/-- `cache_select` of a cache (R109). -/
def selectOfCache (c : CacheId) : BitVec 2 :=
  match c with
  | .icache => 0#2
  | .dcache => 1#2
  | .l2 => 2#2

/-- The request that presents an instruction: for a word its InsnExec event, whose address and register values are no
part of the instruction. -/
def encode (i : Instr) : Request :=
  match encodeWord i, i with
  | some w, _ => .event 1#3 { bytes := bytesOfWord w }
  | none, .init c cfg => .command (selectOfCache c ++ 0#4) { config := cfg }
  | none, .load c addr => .command (selectOfCache c ++ 1#4) { addr := addr }
  | none, .store c addr => .command (selectOfCache c ++ 2#4) { addr := addr }
  | none, .invalidateBlock c row way => .command (selectOfCache c ++ 3#4) { row := row, way := way }
  | none, .invalidateAll c => .command (selectOfCache c ++ 4#4) {}
  | none, .getAddr c row way => .command (selectOfCache c ++ 5#4) { row := row, way := way }
  | none, .isBlockValid c row way => .command (selectOfCache c ++ 6#4) { row := row, way := way }
  | none, .validateInjection c row way word =>
    .command (selectOfCache c ++ 7#4) { row := row, way := way, word := word }
  | none, .stats c => .command (selectOfCache c ++ 8#4) {}
  | none, .teardown c => .command (selectOfCache c ++ 9#4) {}
  | none, .blockInit cfg => .event 0#3 { config := cfg }
  | none, .insnExec vaddr bytes gpr => .event 1#3 { vaddr := vaddr, bytes := bytes, gpr := gpr }
  | none, .memAccess vaddr dir => .event 2#3 { vaddr := vaddr, dir := dir }
  | none, .loadPlan sleepCycles name row way word =>
    .event 3#3 { sleepCycles := sleepCycles, name := name, row := row, way := way, word := word }
  | none, .blockTeardown => .event 4#3 {}
  | none, _ => .event 7#3 {}  -- no instruction is here: a word row has a word

/-! ### The opcode table (spec/opcode_table.json): (mask, match) in priority order -/

/-- Rows 0 to 18 of the table. -/
def opcodeRowsRegular : List (Word × Word) :=
  [ (0x0F700000#32, 0x04200000#32), (0x0F700010#32, 0x06200000#32), (0x0F700000#32, 0x04300000#32), (0x0F700010#32, 0x06300000#32),
    (0x0F700000#32, 0x04600000#32), (0x0F700010#32, 0x06600000#32), (0x0F700000#32, 0x04700000#32), (0x0F700010#32, 0x06700000#32),
    (0x0E500010#32, 0x06000000#32), (0x0E500000#32, 0x04000000#32), (0x0E500010#32, 0x06100000#32), (0x0E5F0000#32, 0x041F0000#32),
    (0x0E500000#32, 0x04100000#32), (0x0E500010#32, 0x06400000#32), (0x0E500000#32, 0x04400000#32), (0x0E500010#32, 0x06500000#32),
    (0x0E5F0000#32, 0x045F0000#32), (0x0E500000#32, 0x04500000#32), (0x0E000010#32, 0x06000010#32) ]

/-- Rows 19 to 29 of the table. -/
def opcodeRowsSync : List (Word × Word) :=
  [ (0x0FF000F0#32, 0x01000090#32), (0x0FF000F0#32, 0x01400090#32), (0x0FF000F0#32, 0x01800090#32), (0x0FF000F0#32, 0x01900090#32),
    (0x0FF000F0#32, 0x01A00090#32), (0x0FF000F0#32, 0x01B00090#32), (0x0FF000F0#32, 0x01C00090#32), (0x0FF000F0#32, 0x01D00090#32),
    (0x0FF000F0#32, 0x01E00090#32), (0x0FF000F0#32, 0x01F00090#32), (0x0E0000F0#32, 0x00000090#32) ]

/-- Rows 30 to 50 of the table. -/
def opcodeRowsExtra : List (Word × Word) :=
  [ (0x0F3000F0#32, 0x002000B0#32), (0x0F3000F0#32, 0x003000B0#32), (0x0F3000F0#32, 0x003000D0#32), (0x0F3000F0#32, 0x003000F0#32),
    (0x0E5000F0#32, 0x000000B0#32), (0x0E5000F0#32, 0x004000B0#32), (0x0E5000F0#32, 0x001000B0#32), (0x0E5F00F0#32, 0x005F00B0#32),
    (0x0E5000F0#32, 0x005000B0#32), (0x0E5000F0#32, 0x000000D0#32), (0x0E5F00F0#32, 0x004F00D0#32), (0x0E5000F0#32, 0x004000D0#32),
    (0x0E5000F0#32, 0x001000D0#32), (0x0E5F00F0#32, 0x005F00D0#32), (0x0E5000F0#32, 0x005000D0#32), (0x0E5000F0#32, 0x000000F0#32),
    (0x0E5000F0#32, 0x004000F0#32), (0x0E5000F0#32, 0x001000F0#32), (0x0E5F00F0#32, 0x005F00F0#32), (0x0E5000F0#32, 0x005000F0#32),
    (0x0C000000#32, 0x00000000#32) ]

/-- Rows 51 to 64 of the table. -/
def opcodeRowsBlock : List (Word × Word) :=
  [ (0x0E500000#32, 0x08400000#32), (0x0E508000#32, 0x08508000#32), (0x0E500000#32, 0x08500000#32), (0x0FFF0000#32, 0x08BD0000#32),
    (0x0FFF0000#32, 0x092D0000#32), (0x0FD00000#32, 0x08000000#32), (0x0FD00000#32, 0x08100000#32), (0x0FD00000#32, 0x08800000#32),
    (0x0FD00000#32, 0x08900000#32), (0x0FD00000#32, 0x09000000#32), (0x0FD00000#32, 0x09100000#32), (0x0FD00000#32, 0x09800000#32),
    (0x0FD00000#32, 0x09900000#32), (0x0E000000#32, 0x0A000000#32) ]

/-- Rows 65 to 74 of the table. -/
def opcodeRowsCoproc : List (Word × Word) :=
  [ (0x0C000F00#32, 0x0C000A00#32), (0x0FA00000#32, 0x0C000000#32), (0x0E100000#32, 0x0C000000#32), (0x0E1F0000#32, 0x0C1F0000#32),
    (0x0E100000#32, 0x0C100000#32), (0x0FFF0FFF#32, 0x0E070E56#32), (0x0FFF0FFF#32, 0x0E070E15#32), (0x0F100010#32, 0x0E000010#32),
    (0x0F100010#32, 0x0E100010#32), (0x00000000#32, 0x00000000#32) ]

/-- The 75 word rows. -/
def opcodeTable : List (Word × Word) :=
  opcodeRowsRegular ++ opcodeRowsSync ++ opcodeRowsExtra ++ opcodeRowsBlock ++ opcodeRowsCoproc

/-- The number of the first row whose `word & mask = match` (R100); `Instr`'s constructors stand in the same order. -/
def firstMatch (w : Word) : Nat :=
  opcodeTable.findIdx fun r => (w &&& r.1) == r.2

/-! ### The opcode table's words -/

/-- The request that presents a table row's word of `nbits` bits: 32 bits are an instruction word, laid out in its
bytes and presented at `vaddr` with register values `gpr`; 3 bits are an event code; 6 bits, or the whole byte that
holds them, are a command code. All other argument lines are zero. DESIGN CHOICE (log entry 16). -/
def requestOfTableWord (nbits w : Nat) (vaddr : Word) (gpr : Vector Word 16) : Option Request :=
  match nbits with
  | 32 => some (.event 1#3 { vaddr := vaddr, bytes := bytesOfWord (BitVec.ofNat 32 w), gpr := gpr })
  | 3 => some (.event (BitVec.ofNat 3 w) {})
  | 6 => some (.command (BitVec.ofNat 6 w) {})
  | 8 => some (.command (BitVec.ofNat 6 w) {})
  | _ => none

/-- The instruction the decoder reads from a table row's word. -/
def decodeTableWord (nbits w : Nat) : Option Instr :=
  match requestOfTableWord nbits w 0#32 (Vector.replicate 16 0#32) with
  | none => none
  | some q =>
    match decode q with
    | .instr i => some i
    | .reservedCommand _ => none
    | .reservedEvent _ => none

end Sys2Proof
end

