-- ==== Sys2Proof/Machine/State.lean ====
section
/-! DEFINITION. The state of the block as plain data (spec 10_state.md), its outputs (R34), the reasons a step can stop,
and the state after reset. -/

namespace Sys2Proof.Machine

/-! ### Classification records (R105) -/

/-- The 62 identifiers and NOT_MEM (R101, R200 to R278). -/
inductive Identifier where
  | strImm
  | strReg
  | strt
  | ldrImm
  | ldrLit
  | ldrReg
  | ldrt
  | strbImm
  | strbReg
  | strbt
  | ldrbImm
  | ldrbLit
  | ldrbReg
  | ldrbt
  | strhReg
  | strhImm
  | strht
  | ldrhReg
  | ldrhImm
  | ldrhLit
  | ldrht
  | ldrdReg
  | ldrdImm
  | ldrdLit
  | ldrsbReg
  | ldrsbImm
  | ldrsbLit
  | ldrsbt
  | strdReg
  | strdImm
  | ldrshReg
  | ldrshImm
  | ldrshLit
  | ldrsht
  | swp
  | swpb
  | strex
  | ldrex
  | strexd
  | ldrexd
  | strexb
  | ldrexb
  | strexh
  | ldrexh
  | stmda
  | ldmda
  | stmia
  | ldmia
  | popMult
  | stmdb
  | pushMult
  | ldmdb
  | stmib
  | ldmib
  | stmUser
  | ldmUser
  | ldmExret
  | cpStr
  | cpLdImm
  | cpLdLit
  | cpMcr
  | cpMrc
  | notMem
deriving DecidableEq, Repr

/-- Category of a classification (R105); `noCategory` is the rule's "none". -/
inductive Category where
  | regular
  | extra
  | block
  | coproc
  | sync
  | noCategory
deriving DecidableEq, Repr

/-- Direction of a classification (R106); `noDirection` is the rule's "None". -/
inductive Direction where
  | load
  | store
  | loadStore
  | noDirection
deriving DecidableEq, Repr

/-- The formats of R94 to R99. -/
inductive Format where
  | lsImm
  | lsReg
  | xlsReg
  | xlsImm
  | sync
  | blk
  | cpLs
  | cpRt
deriving DecidableEq, Repr

/-- The cache-control operation of a register-transfer record (R280). -/
inductive CacheOp where
  | dcisw
  | iciallu
  | noOp
deriving DecidableEq, Repr

/-- The addressing flags `add`, `index`, `wback` of R104. -/
structure AddrFlags where
  add   : Bool
  index : Bool
  wback : Bool
deriving DecidableEq, Repr

/-- The operand fields of a record, per category (R105). -/
inductive Fields where
  | noFields
  | regularImm (rn rt : Reg) (flags : AddrFlags) (imm12 : BitVec 12) (imm32 : Word)
  | regularReg (rn rt : Reg) (flags : AddrFlags) (rm : Reg) (imm5 : BitVec 5) (shiftType : BitVec 2)
  | extraImm (rn rt : Reg) (flags : AddrFlags) (imm8 : BitVec 8) (imm32 : Word)
  | extraReg (rn rt : Reg) (flags : AddrFlags) (rm : Reg)
  | sync (op : BitVec 4) (rn rd rm : Reg)
  | block (rn : Reg) (registerList : BitVec 16) (index add wbackBit s : Bool)
  | coprocLs (coproc : BitVec 4) (rn crd : Reg) (flags : AddrFlags) (d : Bool) (imm8 : BitVec 8)
  | coprocRt (coproc : BitVec 4) (opc1 : BitVec 3) (crn rt : Reg) (opc2 : BitVec 3) (crm : Reg) (cacheOp : CacheOp)
deriving DecidableEq, Repr

/-- The decoded instruction record (R105). `format` is absent for NOT_MEM, the rule's "or none". -/
structure Classification where
  id        : Identifier
  category  : Category
  direction : Direction
  format    : Option Format
  cond      : BitVec 4
  fields    : Fields
deriving DecidableEq, Repr

/-! ### One cache instance (R20 to R25) -/

/-- A sparse array: (index, value) pairs, indices strictly rising, no entry equal to what an unlisted index reads as. -/
abbrev Memory (α : Type) := List (Nat × α)

/-- One `(tag, valid)` pair (R22). -/
structure Entry where
  tag   : Word
  valid : Bool
deriving DecidableEq, Repr

/-- What an entry that is not listed reads as: `valid` false (R50), tag 0 (decision D9: a model may use 0; log entry 6). -/
def Entry.unlisted : Entry := { tag := 0#32, valid := false }

/-- Replacement state, "a tagged variant keyed by `c.repl`" (R23): one cursor per row, or one seed. A cursor that is not
listed is 0 (R50). -/
inductive ReplState where
  | roundRobin (nextWay : Memory Nat)
  | random (seed : Word)
deriving DecidableEq, Repr

/-- The six counters of a cache (R24). -/
structure Counters where
  loadHits         : Nat
  loadMisses       : Nat
  storeHits        : Nat
  storeMisses      : Nat
  compulsoryMisses : Nat
  evictions        : Nat
deriving DecidableEq, Repr

/-- All six counters 0 (R50). -/
def Counters.zero : Counters :=
  { loadHits := 0, loadMisses := 0, storeHits := 0, storeMisses := 0, compulsoryMisses := 0, evictions := 0 }

/-- One cache instance (R20 to R25). The entry `(row, way)` stands at index `row * assoc + way` of `entries`; `repl`
carries the policy of R20 with its state. -/
structure Cache where
  size            : Nat
  assoc           : Nat
  blockSize       : Nat
  rows            : Nat
  alloc           : AllocPolicy
  blockOffsetBits : Nat
  rowBits         : Nat
  entries         : Memory Entry
  repl            : ReplState
  counters        : Counters
  live            : Bool
deriving DecidableEq, Repr

/-! ### Results and outputs (R34) -/

/-- HIT or MISS (R10, R137, R138). -/
inductive Access where
  | hit
  | miss
deriving DecidableEq, Repr

/-- The results of `validate_injection` (R143). -/
inductive Validation where
  | ok
  | rangeError
  | invalidCache
deriving DecidableEq, Repr

/-- The five error kinds (R350). -/
inductive ErrorKind where
  | configError
  | sizeMismatch
  | invalidInjection
  | invalidSlot
  | postTeardown
deriving DecidableEq, Repr

/-- What the block emits: results of engine commands, error reports, the injection report (R34). -/
inductive Output where
  | access (r : Access)
  | address (a : Word)
  | flag (b : Bool)
  | validation (v : Validation)
  | counters (c : Counters)
  | configError
  | sizeMismatch (vaddr : Word)
  | invalidInjection (v : Validation)
  | injectionReport (insnCount : Nat) (addr : Word) (slotValid : Bool)
deriving DecidableEq, Repr

/-! ### The block (R30 to R33) -/

/-- Injector state (R33, R330). -/
inductive InjState where
  | armed
  | fired
deriving DecidableEq, Repr

/-- A stored injection plan (R33). -/
structure Plan where
  sleepCycles : Nat
  target      : CacheId
  row         : Nat
  way         : Nat
  wordInBlock : Nat
deriving DecidableEq, Repr

/-- The block's state after a successful `BlockInit` (R20 to R33). `seeds` are the `SEED0` parameters that `BlockInit`
supplied, read again by the command `init` (log entry 10). -/
structure Block where
  icache     : Cache
  dcache     : Cache
  l2         : Cache
  seeds      : Seeds
  insnCount  : Nat
  loadCount  : Nat
  storeCount : Nat
  textStart  : Word
  textEnd    : Word
  armEnable  : Bool
  cur        : Classification
  injState   : InjState
  plan       : Option Plan
deriving DecidableEq, Repr

/-- The machine. `block` is absent when "no block state exists" (R380, R383). The other fields are the model's own:
the requests the host has presented and the block has not processed (log entry 1), the argument lines of the InsnExec
event being processed (R40, R41; log entry 7), the outputs so far, oldest first (R34; log entry 8), and how many free
values of `cond` have been taken (`Config.freeCond`; log entry 14). -/
structure State where
  block     : Option Block
  inbox     : List Request
  insnVaddr : Word
  gpr       : Vector Word 16
  outputs   : List Output
  freeCount : Nat
deriving DecidableEq, Repr

/-- Why the machine stops. -/
inductive Fault where
  /-- Raised by every command and every event but BlockInit when no block exists, that is after a failed BlockInit:
  "Events before `BlockInit`, or after a failed one, have no defined meaning" (R383, U14). Safe: the spec gives the
  request no effect. -/
  | noBlock
deriving DecidableEq, Repr

/-- Why an instruction has no meaning. -/
inductive Refusal where
  /-- Raised by an arm of `exec` whose instruction has no meaning in this model (there is none). Safe. -/
  | notModelled (mnemonic : String)
deriving DecidableEq, Repr

/-! ### Reset (R50, R381) -/

/-- The NOT_MEM classification (R101) with the `cond` given. -/
def Classification.notMem (cond : BitVec 4) : Classification :=
  { id := .notMem, category := .noCategory, direction := .noDirection, format := none, cond := cond
    fields := .noFields }

/-- `cond` of the record in `cur` right after BlockInit, before any word: R50 gives the NOT_MEM classification and no value
of `cond` (DESIGN CHOICE, unsafe, log entry 14). -/
def Classification.resetCond : BitVec 4 := 0#4

/-- The default I-cache or D-cache right after `init` (R50, R170), with `SEED0` given. -/
def Cache.firstLevelReset (seed : Word) : Cache :=
  { size := 32768, assoc := 4, blockSize := 32, rows := 256, alloc := .noWriteAllocate
    blockOffsetBits := 5, rowBits := 8, entries := [], repl := .random seed, counters := .zero, live := true }

/-- The default L2 right after `init` (R50, R170). -/
def Cache.secondLevelReset : Cache :=
  { size := 524288, assoc := 8, blockSize := 32, rows := 2048, alloc := .writeAllocate
    blockOffsetBits := 5, rowBits := 11, entries := [], repl := .roundRobin [], counters := .zero, live := true }

/-- The block right after `BlockInit` of the standard instance (R50, R170, R381). -/
def Block.reset : Block :=
  { icache := .firstLevelReset Config.standard.seeds.icache
    dcache := .firstLevelReset Config.standard.seeds.dcache
    l2 := .secondLevelReset
    seeds := Config.standard.seeds
    insnCount := 0, loadCount := 0, storeCount := 0
    textStart := Config.standard.textStart, textEnd := Config.standard.textEnd
    armEnable := Config.standard.armEnable
    cur := .notMem Classification.resetCond, injState := .armed, plan := none }

/-- The machine right after reset: `BlockInit`, the only reset (R50, R380), has built the standard instance and no
request is presented. DESIGN CHOICE, unsafe (log entries 5, 7, 14): the OPEN parameters, the port lines, and the `cond` of
`cur` with the count of its free values. -/
def State.reset : State :=
  { block := some .reset, inbox := [], insnVaddr := 0#32, gpr := Vector.replicate 16 0#32, outputs := []
    freeCount := 0 }

end Sys2Proof.Machine
end

