-- ==== Sys2Proof/Machine/Operands.lean ====
section
/-! DEFINITION. Operand forms: category and direction of an identifier (spec R105, R106), addressing flags and
immediates (R103, R104), the record of each format (R105), the payload of DCISW (R303), re-encoding (R113). -/

namespace Sys2Proof.Machine

/-- The category of an identifier (R105). -/
def Identifier.category (id : Identifier) : Category :=
  match id with
  | .strImm | .strReg | .strt | .ldrImm | .ldrLit | .ldrReg | .ldrt | .strbImm | .strbReg | .strbt
  | .ldrbImm | .ldrbLit | .ldrbReg | .ldrbt => .regular
  | .strhReg | .strhImm | .strht | .ldrhReg | .ldrhImm | .ldrhLit | .ldrht | .ldrdReg | .ldrdImm | .ldrdLit
  | .ldrsbReg | .ldrsbImm | .ldrsbLit | .ldrsbt | .strdReg | .strdImm | .ldrshReg | .ldrshImm | .ldrshLit
  | .ldrsht => .extra
  | .swp | .swpb | .strex | .ldrex | .strexd | .ldrexd | .strexb | .ldrexb | .strexh | .ldrexh => .sync
  | .stmda | .ldmda | .stmia | .ldmia | .popMult | .stmdb | .pushMult | .ldmdb | .stmib | .ldmib | .stmUser
  | .ldmUser | .ldmExret => .block
  | .cpStr | .cpLdImm | .cpLdLit | .cpMcr | .cpMrc => .coproc
  | .notMem => .noCategory

/-- The direction of an identifier (R106). -/
def Identifier.direction (id : Identifier) : Direction :=
  match id with
  | .ldrImm | .ldrLit | .ldrReg | .ldrt | .ldrbImm | .ldrbLit | .ldrbReg | .ldrbt | .ldrhReg | .ldrhImm
  | .ldrhLit | .ldrht | .ldrdReg | .ldrdImm | .ldrdLit | .ldrsbReg | .ldrsbImm | .ldrsbLit | .ldrsbt
  | .ldrshReg | .ldrshImm | .ldrshLit | .ldrsht | .ldrex | .ldrexd | .ldrexb | .ldrexh | .ldmda | .ldmia
  | .popMult | .ldmdb | .ldmib | .ldmUser | .ldmExret | .cpLdImm | .cpLdLit => .load
  | .strImm | .strReg | .strt | .strbImm | .strbReg | .strbt | .strhReg | .strhImm | .strht | .strdReg
  | .strdImm | .strex | .strexd | .strexb | .strexh | .stmda | .stmia | .stmdb | .pushMult | .stmib
  | .stmUser | .cpStr => .store
  | .swp | .swpb => .loadStore
  | .cpMcr | .cpMrc | .notMem => .noDirection

/-- The unprivileged identifiers (R94, R95). -/
def Identifier.unprivileged (id : Identifier) : Bool :=
  match id with
  | .strt | .ldrt | .strbt | .ldrbt | .strht | .ldrht | .ldrsbt | .ldrsht => true
  | _ => false

/-- `add`, `index`, `wback` of `P`, `U`, `W` (R104). -/
def addrFlags (p u w : Bool) : AddrFlags :=
  { add := u, index := p, wback := !p || w }

/-! ### Records (R105) -/

/-- A record: category and direction follow the identifier (R106). -/
def recordOf (id : Identifier) (format : Format) (cond : BitVec 4) (fields : Fields) : Classification :=
  { id := id, category := id.category, direction := id.direction, format := some format, cond := cond
    fields := fields }

/-- Record of format `A32_LS_IMM`: `imm32 = zext_32(imm12)` (R103, R190). -/
def recordLsImm (id : Identifier) (f : LsImm) : Classification :=
  recordOf id .lsImm f.cond (.regularImm f.rn f.rt (addrFlags f.p f.u f.w) f.imm12 (f.imm12.setWidth 32))

/-- Record of format `A32_LS_REG` (R103, R190). -/
def recordLsReg (id : Identifier) (f : LsReg) : Classification :=
  recordOf id .lsReg f.cond (.regularReg f.rn f.rt (addrFlags f.p f.u f.w) f.rm f.imm5 f.shiftType)

/-- Record of the extra formats: `w[22]` chooses the field set; `imm8 = w[11:8] : w[3:0]`,
`imm32 = zext_32(imm8)` (R103, R215). -/
def recordXls (id : Identifier) (f : Xls) : Classification :=
  if f.i then
    recordOf id .xlsImm f.cond
      (.extraImm f.rn f.rt (addrFlags f.p f.u f.w) (f.hi ++ f.lo) ((f.hi ++ f.lo).setWidth 32))
  else
    recordOf id .xlsReg f.cond (.extraReg f.rn f.rt (addrFlags f.p f.u f.w) f.lo)

/-- Record of format `A32_SYNC`; `w[11:8]` is ignored (R239). -/
def recordSync (id : Identifier) (op : BitVec 4) (f : Sync) : Classification :=
  recordOf id .sync f.cond (.sync op f.rn f.rd f.rm)

/-- Record of format `A32_BLK`: the raw bits `P`, `U`, `W`, `S` (R104, R259). -/
def recordBlk (id : Identifier) (f : Blk) : Classification :=
  recordOf id .blk f.cond (.block f.rn f.registerList f.p f.u f.w f.s)

/-- Record of format `A32_CP_LS`: `imm8` raw (R103, R273). -/
def recordCpLs (id : Identifier) (f : CpLs) : Classification :=
  recordOf id .cpLs f.cond (.coprocLs f.coproc f.rn f.crd (addrFlags f.p f.u f.w) f.d f.imm8)

/-- Record of format `A32_CP_RT` with its `cache_op` (R273, R280). -/
def recordCpRt (id : Identifier) (op : CacheOp) (f : CpRt) : Classification :=
  recordOf id .cpRt f.cond (.coprocRt f.coproc f.opc1 f.crn f.rt f.opc2 f.crm op)

/-- The `cache_op` field of a record; only a register-transfer record has one (R105). -/
def Classification.cacheOp (r : Classification) : CacheOp :=
  match r.fields with
  | .coprocRt _ _ _ _ _ _ op => op
  | _ => .noOp

/-- `Rt` of a register-transfer record, the register DCISW reads (R303). -/
def Classification.transferReg (r : Classification) : Reg :=
  match r.fields with
  | .coprocRt _ _ _ rt _ _ _ => rt
  | _ => 0#4

/-- "An instruction *is a memory operation* iff its direction is not None" (R106). -/
def Classification.isMemoryOp (r : Classification) : Bool :=
  r.direction != .noDirection

/-! ### The DCISW payload (R303) -/

/-- `set = v[13:4]` (R303, decisions D21, D22). -/
def dciswSet (v : Word) : Nat := (v.extractLsb' 4 10).toNat

/-- `way = v[31:30]` (R303). -/
def dciswWay (v : Word) : Nat := (v.extractLsb' 30 2).toNat

/-! ### Re-encoding a record (R113) -/

/-- `W` of a re-encoded word: 1 for an unprivileged form, else `index and wback` (R113). -/
def rebuiltW (id : Identifier) (flags : AddrFlags) : Bool :=
  id.unprivileged || (flags.index && flags.wback)

/-- `B` of a regular identifier (R94). -/
def Identifier.byteBit (id : Identifier) : Bool :=
  match id with
  | .strbImm | .strbReg | .strbt | .ldrbImm | .ldrbLit | .ldrbReg | .ldrbt => true
  | _ => false

/-- `L` of a regular or extra identifier (R94, R95): LDRD is a load whose `L` is 0. -/
def Identifier.loadBit (id : Identifier) : Bool :=
  match id with
  | .ldrdReg | .ldrdImm | .ldrdLit => false
  | _ => id.direction == .load

/-- `op2` of an extra identifier (R95). -/
def Identifier.op2 (id : Identifier) : BitVec 2 :=
  match id with
  | .strhReg | .strhImm | .strht | .ldrhReg | .ldrhImm | .ldrhLit | .ldrht => 0b01#2
  | .ldrdReg | .ldrdImm | .ldrdLit | .ldrsbReg | .ldrsbImm | .ldrsbLit | .ldrsbt => 0b10#2
  | _ => 0b11#2

/-- The word rebuilt from a record of a regular or extra form (R113); `w[11:8]` of the extra register form is not kept
and is rebuilt as 0. -/
def Classification.rebuild (r : Classification) : Option Word :=
  match r.fields with
  | .regularImm rn rt fl imm12 _ =>
    some (LsImm.word r.id.byteBit r.id.loadBit
      { cond := r.cond, p := fl.index, u := fl.add, w := rebuiltW r.id fl, rn := rn, rt := rt, imm12 := imm12 })
  | .regularReg rn rt fl rm imm5 ty =>
    some (LsReg.word r.id.byteBit r.id.loadBit
      { cond := r.cond, p := fl.index, u := fl.add, w := rebuiltW r.id fl, rn := rn, rt := rt
        imm5 := imm5, shiftType := ty, rm := rm })
  | .extraImm rn rt fl imm8 _ =>
    some (Xls.word r.id.op2 r.id.loadBit
      { cond := r.cond, p := fl.index, u := fl.add, i := true, w := rebuiltW r.id fl, rn := rn, rt := rt
        hi := imm8.extractLsb' 4 4, lo := imm8.extractLsb' 0 4 })
  | .extraReg rn rt fl rm =>
    some (Xls.word r.id.op2 r.id.loadBit
      { cond := r.cond, p := fl.index, u := fl.add, i := false, w := rebuiltW r.id fl, rn := rn, rt := rt
        hi := 0#4, lo := rm })
  | _ => none

end Sys2Proof.Machine
end

