-- ==== Sys2Proof/Machine/Classifier.lean ====
section
/-! DEFINITION. The classifier as the decode procedure of spec R100 writes it, from a word straight to its record
(R105), and the recognition of the cache-control instructions (R280, R283). `Decode.lean` reads the same word as a row
of the opcode table; that the two agree is a statement, not a definition. -/

namespace Sys2Proof.Machine

/-- `cache_op` of a register-transfer record's identifier and fields (R280). -/
def cacheOpOf (id : Identifier) (f : CpRt) : CacheOp :=
  if id ≠ .cpMcr then .noOp
  else if f.coproc ≠ Config.cacheCtrlCoproc ∨ f.opc1 ≠ 0#3 ∨ f.crn ≠ 7#4 then .noOp
  else if f.crm = 6#4 ∧ f.opc2 = 2#3 then .dcisw
  else if f.crm = 5#4 ∧ f.opc2 = 0#3 then .iciallu
  else .noOp

/-- `is_cache_inst` of each level (R177, R283). -/
def isCacheInst (level : CacheId) (r : Classification) : Bool :=
  match level with
  | .icache => r.cacheOp == .iciallu
  | .dcache => r.cacheOp == .dcisw
  | .l2 => false

/-- Regular load/store (R94, R100): unprivileged, register, literal, immediate, in that order. -/
def classifyRegular (w : Word) : Classification :=
  let a := w.getLsbD 25
  let p := w.getLsbD 24
  let b := w.getLsbD 22
  let wbit := w.getLsbD 21
  let l := w.getLsbD 20
  let rn := w.extractLsb' 16 4
  let id : Identifier :=
    if p = false ∧ wbit = true then
      if l then (if b then .ldrbt else .ldrt) else (if b then .strbt else .strt)
    else if a then
      if l then (if b then .ldrbReg else .ldrReg) else (if b then .strbReg else .strReg)
    else if l ∧ rn = 15#4 then (if b then .ldrbLit else .ldrLit)
    else if l then (if b then .ldrbImm else .ldrImm) else (if b then .strbImm else .strImm)
  if a then recordLsReg id (LsReg.ofWord w) else recordLsImm id (LsImm.ofWord w)

/-- The four forms of an extra name (R100): `T` where the name has one, `_REG`, `_LIT` where the name is a load,
`_IMM`. -/
def extraForm (w : Word) (unprivileged literal : Option Identifier) (reg imm : Identifier) : Identifier :=
  let p := w.getLsbD 24
  let wbit := w.getLsbD 21
  let rn := w.extractLsb' 16 4
  if p = false ∧ wbit = true ∧ unprivileged ≠ none then unprivileged.getD imm
  else if w.getLsbD 22 = false then reg
  else if rn = 15#4 ∧ literal ≠ none then literal.getD imm
  else imm

/-- Extra load/store (R95, R100): the name by `(op2, L)`. -/
def classifyExtra (w : Word) : Classification :=
  let op2 := w.extractLsb' 5 2
  let l := w.getLsbD 20
  let id : Identifier :=
    if op2 = 0b01#2 then
      if l then extraForm w (some .ldrht) (some .ldrhLit) .ldrhReg .ldrhImm
      else extraForm w (some .strht) none .strhReg .strhImm
    else if op2 = 0b10#2 then
      if l then extraForm w (some .ldrsbt) (some .ldrsbLit) .ldrsbReg .ldrsbImm
      else extraForm w none (some .ldrdLit) .ldrdReg .ldrdImm
    else
      if l then extraForm w (some .ldrsht) (some .ldrshLit) .ldrshReg .ldrshImm
      else extraForm w none none .strdReg .strdImm
  recordXls id (Xls.ofWord w)

/-- NOT_MEM with the word's `cond` (R101). -/
def classifyNotMem (w : Word) : Classification := .notMem (w.extractLsb' 28 4)

/-- The name of a synchronization value `w[23:20]` (R96); 1, 2, 3, 5, 6, 7 have none. -/
def syncName (op : BitVec 4) : Option Identifier :=
  match op.toNat with
  | 0x0 => some .swp
  | 0x4 => some .swpb
  | 0x8 => some .strex
  | 0x9 => some .ldrex
  | 0xA => some .strexd
  | 0xB => some .ldrexd
  | 0xC => some .strexb
  | 0xD => some .ldrexb
  | 0xE => some .strexh
  | 0xF => some .ldrexh
  | _ => none

/-- Synchronization primitives (R96, R100). -/
def classifySync (w : Word) : Classification :=
  match syncName (w.extractLsb' 20 4) with
  | some id => recordSync id (w.extractLsb' 20 4) (Sync.ofWord w)
  | none => classifyNotMem w

/-- Block load/store (R97, R100). -/
def classifyBlock (w : Word) : Classification :=
  let opBits := w.extractLsb' 20 5
  let pu := w.extractLsb' 23 2
  let l := w.getLsbD 20
  let rn := w.extractLsb' 16 4
  let id : Identifier :=
    if w.getLsbD 22 then
      if l = false then .stmUser else if w.getLsbD 15 then .ldmExret else .ldmUser
    else if opBits = 0b01011#5 ∧ rn = 13#4 then .popMult
    else if opBits = 0b10010#5 ∧ rn = 13#4 then .pushMult
    else if pu = 0b00#2 then (if l then .ldmda else .stmda)
    else if pu = 0b01#2 then (if l then .ldmia else .stmia)
    else if pu = 0b10#2 then (if l then .ldmdb else .stmdb)
    else (if l then .ldmib else .stmib)
  recordBlk id (Blk.ofWord w)

/-- Coprocessor load/store and register transfer (R98, R99, R100). -/
def classifyCoproc (w : Word) : Classification :=
  if w.extractLsb' 8 4 = Config.fpCoproc then classifyNotMem w
  else if w.getLsbD 25 = false then
    if w.extractLsb' 23 2 = 0b00#2 ∧ w.getLsbD 21 = false then classifyNotMem w
    else if w.getLsbD 20 = false then recordCpLs .cpStr (CpLs.ofWord w)
    else if w.extractLsb' 16 4 = 15#4 then recordCpLs .cpLdLit (CpLs.ofWord w)
    else recordCpLs .cpLdImm (CpLs.ofWord w)
  else if w.getLsbD 24 = true ∨ w.getLsbD 4 = false then classifyNotMem w
  else
    let id : Identifier := if w.getLsbD 20 then .cpMrc else .cpMcr
    recordCpRt id (cacheOpOf id (CpRt.ofWord w)) (CpRt.ofWord w)

/-- `classify(w)` (R100): total, and `cond` is never evaluated (R102). -/
def classify (w : Word) : Classification :=
  let top := w.extractLsb' 25 3
  if top = 0b010#3 ∨ (top = 0b011#3 ∧ w.getLsbD 4 = false) then classifyRegular w
  else if top = 0b011#3 then classifyNotMem w
  else if top = 0b000#3 then
    if w.getLsbD 7 = true ∧ w.getLsbD 4 = true then
      if w.extractLsb' 5 2 = 0b00#2 then
        if w.getLsbD 24 then classifySync w else classifyNotMem w
      else classifyExtra w
    else classifyNotMem w
  else if top = 0b001#3 then classifyNotMem w
  else if top = 0b100#3 then classifyBlock w
  else if top = 0b101#3 then classifyNotMem w
  else classifyCoproc w

end Sys2Proof.Machine
end

