-- ==== Sys2Proof/Machine/Memory.lean ====
section
/-! DEFINITION. Sparse arrays in canonical form: the tag and valid arrays (spec R22) and the cursors (R23) are kept as
lists of (index, value) pairs. DESIGN CHOICE, safe (log entry 15). -/

namespace Sys2Proof.Machine

/-- The value at index `a`; `d` where `a` is not listed. -/
def Memory.read {α : Type} (d : α) (m : Memory α) (a : Nat) : α :=
  match m with
  | [] => d
  | (k, v) :: rest => if k = a then v else Memory.read d rest a

/-- Put `v` at index `a`. Writing what an unlisted index reads as removes the entry. -/
def Memory.write {α : Type} [DecidableEq α] (d : α) (m : Memory α) (a : Nat) (v : α) : Memory α :=
  match m with
  | [] => if v = d then [] else [(a, v)]
  | (k, x) :: rest =>
    if a < k then (if v = d then (k, x) :: rest else (a, v) :: (k, x) :: rest)
    else if a = k then (if v = d then rest else (a, v) :: rest)
    else (k, x) :: Memory.write d rest a v

/-- Apply `f` to every listed value; entries that become what an unlisted index reads as are removed. -/
def Memory.map {α : Type} [DecidableEq α] (d : α) (f : α → α) (m : Memory α) : Memory α :=
  match m with
  | [] => []
  | (k, v) :: rest => if f v = d then Memory.map d f rest else (k, f v) :: Memory.map d f rest

/-- The canonical form: indices strictly rising, no entry equal to what an unlisted index reads as. -/
def Memory.wf {α : Type} [DecidableEq α] (d : α) (m : Memory α) : Bool :=
  match m with
  | [] => true
  | (k, v) :: rest => decide (v ≠ d) && rest.all (fun e => decide (k < e.1)) && Memory.wf d rest

end Sys2Proof.Machine
end

