-- ==== Sys2Proof/Machine/Flags.lean ====
section
/-! DEFINITION. The status bits of the block (spec R42): the `valid` bits of a cache and what sets and clears them, the
`live` flag, `arm_enable` and the `.text` test, the injector's state; the kinds of error an output reports (R350). -/

namespace Sys2Proof.Machine

/-- The index of the entry `(row, way)`. -/
def Cache.slot (c : Cache) (row way : Nat) : Nat := row * c.assoc + way

/-- The entry `(row, way)` (R22). -/
def Cache.entry (c : Cache) (row way : Nat) : Entry := Memory.read .unlisted c.entries (c.slot row way)

/-- `c` with the entry `(row, way)` set to `e`. -/
def Cache.withEntry (c : Cache) (row way : Nat) (e : Entry) : Cache :=
  { c with entries := Memory.write .unlisted c.entries (c.slot row way) e }

/-- `c.tag[row][way] <- tag ; c.valid[row][way] <- true` (R134). -/
def Cache.install (c : Cache) (row way : Nat) (tag : Word) : Cache :=
  c.withEntry row way { tag := tag, valid := true }

/-- `c.valid[row][way] <- false`: "The tag is left in place" (R139). -/
def Cache.clearValid (c : Cache) (row way : Nat) : Cache :=
  c.withEntry row way { c.entry row way with valid := false }

/-- Every `valid` bit false, every tag left in place (R140, decision D41). -/
def Cache.clearAllValid (c : Cache) : Cache :=
  { c with entries := Memory.map .unlisted (fun e => { e with valid := false }) c.entries }

/-- `row < c.rows and way < c.assoc` (R139, R141 to R143). -/
def Cache.inRange (c : Cache) (row way : Nat) : Bool := decide (row < c.rows) && decide (way < c.assoc)

/-- "An address `a` is *in `.text`* iff `text_start <= a < text_end`, unsigned" (R31). -/
def Block.inText (b : Block) (a : Word) : Bool := b.textStart.ule a && a.ult b.textEnd

/-- The plan that an armed injector holds, if any (R33, R333). -/
def Block.armedPlan (b : Block) : Option Plan :=
  match b.injState with
  | .armed => b.plan
  | .fired => none

/-- The codes of the error kinds (R350, decision D28). -/
def ErrorKind.code (k : ErrorKind) : Nat :=
  match k with
  | .configError => 1
  | .sizeMismatch => 2
  | .invalidInjection => 3
  | .invalidSlot => 4
  | .postTeardown => 5

/-- The error kind an output reports, if any (R350): InvalidSlot is the third component of the injection report (R354),
PostTeardown is reported to nobody (R355). -/
def Output.errorKind (o : Output) : Option ErrorKind :=
  match o with
  | .configError => some .configError
  | .sizeMismatch _ => some .sizeMismatch
  | .invalidInjection _ => some .invalidInjection
  | .injectionReport _ _ slotValid => if slotValid then none else some .invalidSlot
  | .access _ => none
  | .address _ => none
  | .flag _ => none
  | .validation _ => none
  | .counters _ => none

end Sys2Proof.Machine
end

