-- ==== Sys2Proof/Machine/Ops.lean ====
section
/-! DEFINITION. The named operations: the cache engine (spec 40_cache_engine.md), the hierarchy (41), the driver's parts
(44), the fault injector (45), initialisation and teardown (70), and how an instruction acts on the machine. The block
has no exception entry and no return from one (R358, R359): its errors are outputs (R350). -/

namespace Sys2Proof.Machine

/-! ### Construction (R130) -/

/-- A positive power of two. -/
def isPowerOfTwo (n : Nat) : Bool := n != 0 && 2 ^ n.log2 == n

/-- The preconditions of `init` (R130, R351). -/
def configValid (cfg : CacheConfig) : Bool :=
  isPowerOfTwo cfg.size && isPowerOfTwo cfg.assoc && isPowerOfTwo cfg.block
    && cfg.size % (cfg.assoc * cfg.block) == 0

/-- The replacement state after `init` (R50, R130): cursors 0, or the seed `SEED0`. -/
def ReplState.initial (p : ReplPolicy) (seed0 : Word) : ReplState :=
  match p with
  | .roundRobin => .roundRobin []
  | .random => .random seed0

/-- `init(size, associativity, block_size, replace_policy, alloc_policy)` (R130); none is ConfigError: "no state
created". -/
def Cache.init (cfg : CacheConfig) (seed0 : Word) : Option Cache :=
  if configValid cfg then
    some
      { size := cfg.size, assoc := cfg.assoc, blockSize := cfg.block
        rows := cfg.size / (cfg.assoc * cfg.block)
        alloc := cfg.alloc
        blockOffsetBits := cfg.block.log2
        rowBits := (cfg.size / (cfg.assoc * cfg.block)).log2
        entries := []
        repl := .initial cfg.repl seed0
        counters := .zero
        live := true }
  else none

/-! ### Address decomposition and lookup (R131, R132) -/

/-- `c.row_shift` (R21). -/
def Cache.rowShift (c : Cache) : Nat := c.blockOffsetBits

/-- `c.tag_shift` (R21). -/
def Cache.tagShift (c : Cache) : Nat := c.blockOffsetBits + c.rowBits

/-- `row(addr) = (addr >> c.row_shift) mod c.rows` (R131). -/
def Cache.rowOf (c : Cache) (addr : Word) : Nat := (addr.toNat >>> c.rowShift) % c.rows

/-- `tag(addr) = addr >> c.tag_shift` (R131); 0 for every address if `c.tag_shift >= XLEN`. -/
def Cache.tagOf (c : Cache) (addr : Word) : Word := addr >>> c.tagShift

/-- `offset(addr)`, the low `block_offset_bits` bits (R131), which no operation reads (R62). -/
def Cache.offsetOf (c : Cache) (addr : Word) : Nat := addr.toNat % 2 ^ c.blockOffsetBits

/-- Way `way` of the row holds a valid entry with this tag (R132). -/
def Cache.holds (c : Cache) (row : Nat) (tag : Word) (way : Nat) : Bool :=
  (c.entry row way).valid && (c.entry row way).tag == tag

/-- `lookup(c, row, tag)` (R132); at most one way matches in a structurally sound cache (R26(b)). -/
def Cache.lookup (c : Cache) (row : Nat) (tag : Word) : Option Nat :=
  (List.range c.assoc).find? (c.holds row tag)

/-! ### Fill and victim selection (R134 to R136) -/

/-- The lowest way of the row whose entry is not valid, if any (R134, decision D6). -/
def Cache.freeWay (c : Cache) (row : Nat) : Option Nat :=
  (List.range c.assoc).find? fun way => !(c.entry row way).valid

/-- The seed after one victim selection (R136, decision D5). -/
def nextSeed (seed : Word) : Word := seed * Config.lcgMultiplier

/-- The way `victim(c, row)` returns (R135, R136). -/
def Cache.victimWay (c : Cache) (row : Nat) : Nat :=
  match c.repl with
  | .roundRobin nextWay => Memory.read 0 nextWay row
  | .random seed => (nextSeed seed).toNat % c.assoc

/-- The replacement state after `victim(c, row)` (R135, R136). -/
def Cache.victimRepl (c : Cache) (row : Nat) : ReplState :=
  match c.repl with
  | .roundRobin nextWay =>
    .roundRobin (Memory.write 0 nextWay row ((Memory.read 0 nextWay row + 1) % c.assoc))
  | .random seed => .random (nextSeed seed)

/-- Install a line in a way and count the fill by the slot's `valid` bit before it (R134). -/
def Cache.fillWay (c : Cache) (row way : Nat) (tag : Word) : Cache :=
  let k := c.counters
  let counted :=
    if (c.entry row way).valid then { k with evictions := k.evictions + 1 }
    else { k with compulsoryMisses := k.compulsoryMisses + 1 }
  { c.install row way tag with counters := counted }

/-- `fill(c, row, tag)` (R134): the lowest invalid way, else the victim. -/
def Cache.fill (c : Cache) (row : Nat) (tag : Word) : Cache :=
  match c.freeWay row with
  | some way => c.fillWay row way tag
  | none => Cache.fillWay { c with repl := c.victimRepl row } row (c.victimWay row) tag

/-! ### Access operations (R137, R138) -/

/-- `load(c, addr)` (R137). -/
def Cache.load (c : Cache) (addr : Word) : Access × Cache :=
  let k := c.counters
  if !c.live then (.miss, c)
  else if (c.lookup (c.rowOf addr) (c.tagOf addr)).isSome then
    (.hit, { c with counters := { k with loadHits := k.loadHits + 1 } })
  else
    (.miss, Cache.fill { c with counters := { k with loadMisses := k.loadMisses + 1 } } (c.rowOf addr) (c.tagOf addr))

/-- `store(c, addr)` (R138). -/
def Cache.store (c : Cache) (addr : Word) : Access × Cache :=
  let k := c.counters
  if !c.live then (.miss, c)
  else if (c.lookup (c.rowOf addr) (c.tagOf addr)).isSome then
    (.hit, { c with counters := { k with storeHits := k.storeHits + 1 } })
  else
    let missed := { c with counters := { k with storeMisses := k.storeMisses + 1 } }
    match c.alloc with
    | .writeAllocate => (.miss, missed.fill (c.rowOf addr) (c.tagOf addr))
    | .noWriteAllocate => (.miss, missed)

/-! ### Maintenance and probe operations (R139 to R145) -/

/-- `invalidate_block(c, row, way)` (R139). -/
def Cache.invalidateBlock (c : Cache) (row way : Nat) : Cache :=
  if c.live && c.inRange row way then c.clearValid row way else c

/-- `invalidate_all(c)` (R140). -/
def Cache.invalidateAll (c : Cache) : Cache :=
  if c.live then c.clearAllValid else c

/-- `is_block_valid(c, row, way)` (R142). -/
def Cache.isBlockValid (c : Cache) (row way : Nat) : Bool :=
  c.live && c.inRange row way && (c.entry row way).valid

/-- `get_addr(c, row, way)` (R141), in 32-bit arithmetic: the result fits for every tag the cache can hold (R22). -/
def Cache.getAddr (c : Cache) (row way : Nat) : Word :=
  if c.isBlockValid row way then
    ((c.entry row way).tag <<< c.tagShift) ||| (BitVec.ofNat 32 row <<< c.rowShift)
  else 0#32

/-- `validate_injection(c, row, way, word_in_block)` (R143). -/
def Cache.validateInjection (c : Cache) (row way word : Nat) : Validation :=
  if !c.live then .invalidCache
  else if c.inRange row way && decide (word < c.blockSize / Config.wordBytes) then .ok
  else .rangeError

/-- `stats(c)`: a snapshot of the six counters, also of a torn-down cache (R144, decision D40). -/
def Cache.stats (c : Cache) : Counters := c.counters

/-- `teardown(c)` (R145). -/
def Cache.teardown (c : Cache) : Cache := { c with live := false }

/-! ### The three instances (R170, R171) -/

/-- The instance a selector names. -/
def Block.cache (b : Block) (c : CacheId) : Cache :=
  match c with
  | .icache => b.icache
  | .dcache => b.dcache
  | .l2 => b.l2

/-- `b` with the instance a selector names replaced. -/
def Block.withCache (b : Block) (c : CacheId) (v : Cache) : Block :=
  match c with
  | .icache => { b with icache := v }
  | .dcache => { b with dcache := v }
  | .l2 => { b with l2 := v }

/-- `SEED0[c]` (R8). -/
def seedOf (s : Seeds) (c : CacheId) : Word :=
  match c with
  | .icache => s.icache
  | .dcache => s.dcache
  | .l2 => s.l2

/-- The cache an injection plan names (R331). -/
def planTarget (n : CacheName) : CacheId :=
  match n with
  | .icache => .icache
  | .dcache => .dcache
  | .l2cache => .l2

/-! ### Hierarchy operations (R172 to R176) -/

/-- `l2_load(addr)` (R175). -/
def Block.l2Load (b : Block) (addr : Word) : Block := { b with l2 := (b.l2.load addr).2 }

/-- `l2_store(addr)` (R175). -/
def Block.l2Store (b : Block) (addr : Word) : Block := { b with l2 := (b.l2.store addr).2 }

/-- `icache_load(addr)` (R172): a miss is forwarded to L2 with the same address. -/
def Block.icacheLoad (b : Block) (addr : Word) : Access × Block :=
  let r := b.icache.load addr
  let b' := { b with icache := r.2 }
  match r.1 with
  | .hit => (.hit, b')
  | .miss => (.miss, b'.l2Load addr)

/-- `dcache_load(addr)` (R173). -/
def Block.dcacheLoad (b : Block) (addr : Word) : Access × Block :=
  let r := b.dcache.load addr
  let b' := { b with dcache := r.2 }
  match r.1 with
  | .hit => (.hit, b')
  | .miss => (.miss, b'.l2Load addr)

/-- `dcache_store(addr)` (R174): a store that hits is not forwarded. -/
def Block.dcacheStore (b : Block) (addr : Word) : Access × Block :=
  let r := b.dcache.store addr
  let b' := { b with dcache := r.2 }
  match r.1 with
  | .hit => (.hit, b')
  | .miss => (.miss, b'.l2Store addr)

/-- `icache_invalidate_all()` (R176). -/
def Block.icacheInvalidateAll (b : Block) : Block := { b with icache := b.icache.invalidateAll }

/-- `dcache_invalidate_block(row, way)` (R176). -/
def Block.dcacheInvalidateBlock (b : Block) (row way : Nat) : Block :=
  { b with dcache := b.dcache.invalidateBlock row way }

/-! ### The fault injector (R331, R333) -/

/-- The report of a plan that fires now (R333 to R335, R337). -/
def Block.injectionReport (b : Block) (p : Plan) : Output :=
  let c := b.cache p.target
  .injectionReport b.insnCount
    (c.getAddr p.row p.way + BitVec.ofNat 32 (p.wordInBlock * Config.wordBytes))
    (c.isBlockValid p.row p.way)

/-- `injector_notify()` (R333). -/
def Block.injectorNotify (b : Block) : Block × List Output :=
  match b.armedPlan with
  | none => (b, [])
  | some p =>
    if p.sleepCycles ≤ b.insnCount then ({ b with injState := .fired }, [b.injectionReport p])
    else (b, [])

/-- `LoadPlan(sleep, name, row, way, word)` (R331). -/
def Block.loadPlan (b : Block) (sleepCycles : Nat) (name : CacheName) (row way word : Nat) : Block × List Output :=
  match b.injState with
  | .fired => (b, [])
  | .armed =>
    match (b.cache (planTarget name)).validateInjection row way word with
    | .ok =>
      ({ b with plan := some { sleepCycles := sleepCycles, target := planTarget name, row := row, way := way
                               wordInBlock := word } }, [])
    | v => (b, [.invalidInjection v])

/-! ### The access driver (R301 to R305) -/

/-- Part 2 of `InsnExec` (R301, R302): count, `icache_load`, notify the injector, for an address in `.text`. -/
def Block.fetch (b : Block) (vaddr : Word) : Block × List Output :=
  if b.inText vaddr then
    (Block.icacheLoad { b with insnCount := b.insnCount + 1 } vaddr).2.injectorNotify
  else (b, [])

/-- Part 3 of `InsnExec` (R301, R303, R304, R307): the cache-control action of the current instruction. -/
def Block.cacheControl (b : Block) (gpr : Vector Word 16) : Block :=
  if b.armEnable then
    match b.cur.cacheOp with
    | .dcisw =>
      let v := gpr.get ⟨b.cur.transferReg.toNat, b.cur.transferReg.isLt⟩
      b.dcacheInvalidateBlock (dciswSet v) (dciswWay v)
    | .iciallu => b.icacheInvalidateAll
    | .noOp => b
  else b

/-- `InsnExec` of a four-byte word whose record is `r` (R301): classify, fetch, cache control. -/
def Block.runWord (b : Block) (r : Classification) (vaddr : Word) (gpr : Vector Word 16) : Block × List Output :=
  let fetched := Block.fetch { b with cur := r } vaddr
  (fetched.1.cacheControl gpr, fetched.2)

/-- `InsnExec` of bytes that are not four (R91, R301, R352): not classified, reported, fetched all the same. `cond` is the
record's field that no word gives. -/
def Block.wrongSize (b : Block) (cond : BitVec 4) (vaddr : Word) : Block × List Output :=
  let fetched := Block.fetch { b with cur := .notMem cond } vaddr
  (fetched.1, .sizeMismatch vaddr :: fetched.2)

/-- `MemAccess(vaddr, dir)` (R305). -/
def Block.memAccess (b : Block) (vaddr : Word) (dir : AccessDir) : Block :=
  if !b.cur.isMemoryOp then b
  else if b.inText vaddr then b
  else
    match dir with
    | .write => (Block.dcacheStore { b with storeCount := b.storeCount + 1 } vaddr).2
    | .read => (Block.dcacheLoad { b with loadCount := b.loadCount + 1 } vaddr).2

/-! ### Initialisation and teardown (R380, R384) -/

/-- `BlockInit` (R380); none if any `init` raised ConfigError. -/
def Block.init (cfg : BlockConfig) : Option Block :=
  match Cache.init cfg.icache cfg.seeds.icache, Cache.init cfg.dcache cfg.seeds.dcache,
      Cache.init cfg.l2 cfg.seeds.l2 with
  | some i, some d, some l =>
    some
      { icache := i, dcache := d, l2 := l, seeds := cfg.seeds
        insnCount := 0, loadCount := 0, storeCount := 0
        textStart := cfg.textStart, textEnd := cfg.textEnd, armEnable := cfg.armEnable
        cur := .notMem Classification.resetCond, injState := .armed, plan := none }
  | _, _, _ => none

/-- `Teardown()` (R384). -/
def Block.teardown (b : Block) : Block :=
  { b with icache := b.icache.teardown, dcache := b.dcache.teardown, l2 := b.l2.teardown }

/-! ### Acting on the machine -/

/-- An operation of the block: its new state and the outputs it appends (R300). Without a block the request has no
meaning (R383). -/
def State.onBlock (s : State) (op : Block → Block × List Output) : Host.Outcome State Fault Refusal :=
  match s.block with
  | none => .fault .noBlock
  | some b => .next { s with block := some (op b).1, outputs := s.outputs ++ (op b).2 }

/-- An ARM word whose record is `r`, presented at the port lines' address and register values (R301). -/
def State.onWord (s : State) (r : Classification) : Host.Outcome State Fault Refusal :=
  s.onBlock fun b => b.runWord r s.insnVaddr s.gpr

/-- Bytes that are not one word, presented at the port lines' address (R91, R301): the `cond` of the record is the next free
value (log entry 14). -/
def State.onWrongSize (s : State) : Host.Outcome State Fault Refusal :=
  State.onBlock { s with freeCount := s.freeCount + 1 } fun b => b.wrongSize (Config.freeCond s.freeCount) s.insnVaddr

/-- An engine operation on one instance (R171): its result and the instance's new state. -/
def State.onCache (s : State) (c : CacheId) (op : Cache → Cache × List Output) : Host.Outcome State Fault Refusal :=
  s.onBlock fun b => (b.withCache c (op (b.cache c)).1, (op (b.cache c)).2)

/-- Take the first request from the inbox; an InsnExec event puts its address and register values on the port lines. -/
def State.accept (s : State) (q : Request) (rest : List Request) : State :=
  match q with
  | .command _ _ => { s with inbox := rest }
  | .event code a =>
    if code = 1#3 then { s with inbox := rest, insnVaddr := a.vaddr, gpr := a.gpr } else { s with inbox := rest }

/-- `Retire(insn_vaddr, bytes, gpr, accesses)` (R310): the InsnExec event, then its memory events in list order. -/
def retire (vaddr : Word) (bytes : List Byte) (gpr : Vector Word 16) (accesses : List (Word × AccessDir)) :
    List Request :=
  .event 1#3 { vaddr := vaddr, bytes := bytes, gpr := gpr }
    :: accesses.map fun a => .event 2#3 { vaddr := a.1, dir := a.2 }

/-- The memory events a conforming host presents for a swap of address `a`: store first, then load (R306). -/
def swapAccesses (a : Word) : List (Word × AccessDir) := [(a, .write), (a, .read)]

end Sys2Proof.Machine
end

