-- ==== Sys2Proof/Machine/BlockTransfer.lean ====
section
/-! DEFINITION. Meanings: block load/store (spec R259 to R272). Every meaning is the InsnExec event of its word (R301); the block does nothing with the register list. -/

namespace Sys2Proof.Machine

/-- `STM_USER` (R270). -/
def execStmUser (f : Blk) (s : State) : Host.Outcome State Fault Refusal :=
  s.onWord (recordBlk .stmUser f)

/-- `LDM_EXRET` (R272). -/
def execLdmExret (f : Blk) (s : State) : Host.Outcome State Fault Refusal :=
  s.onWord (recordBlk .ldmExret f)

/-- `LDM_USER` (R271). -/
def execLdmUser (f : Blk) (s : State) : Host.Outcome State Fault Refusal :=
  s.onWord (recordBlk .ldmUser f)

/-- `POP_MULT` (R264). -/
def execPopMult (f : Blk) (s : State) : Host.Outcome State Fault Refusal :=
  s.onWord (recordBlk .popMult f)

/-- `PUSH_MULT` (R266). -/
def execPushMult (f : Blk) (s : State) : Host.Outcome State Fault Refusal :=
  s.onWord (recordBlk .pushMult f)

/-- `STMDA` (R260). -/
def execStmda (f : Blk) (s : State) : Host.Outcome State Fault Refusal :=
  s.onWord (recordBlk .stmda f)

/-- `LDMDA` (R261). -/
def execLdmda (f : Blk) (s : State) : Host.Outcome State Fault Refusal :=
  s.onWord (recordBlk .ldmda f)

/-- `STMIA` (R262). -/
def execStmia (f : Blk) (s : State) : Host.Outcome State Fault Refusal :=
  s.onWord (recordBlk .stmia f)

/-- `LDMIA` (R263). -/
def execLdmia (f : Blk) (s : State) : Host.Outcome State Fault Refusal :=
  s.onWord (recordBlk .ldmia f)

/-- `STMDB` (R265). -/
def execStmdb (f : Blk) (s : State) : Host.Outcome State Fault Refusal :=
  s.onWord (recordBlk .stmdb f)

/-- `LDMDB` (R267). -/
def execLdmdb (f : Blk) (s : State) : Host.Outcome State Fault Refusal :=
  s.onWord (recordBlk .ldmdb f)

/-- `STMIB` (R268). -/
def execStmib (f : Blk) (s : State) : Host.Outcome State Fault Refusal :=
  s.onWord (recordBlk .stmib f)

/-- `LDMIB` (R269). -/
def execLdmib (f : Blk) (s : State) : Host.Outcome State Fault Refusal :=
  s.onWord (recordBlk .ldmib f)

end Sys2Proof.Machine
end

