-- ==== Sys2Proof/Machine/Coprocessor.lean ====
section
/-! DEFINITION. Meanings: coprocessor load/store and register transfer, and the two cache-control instructions (spec R273 to R283). Every meaning is the InsnExec event of its word (R301); DCISW and ICIALLU go on to part 3 of that rule. -/

namespace Sys2Proof.Machine

/-- `CP_STR` (R274). -/
def execCpStr (f : CpLs) (s : State) : Host.Outcome State Fault Refusal :=
  s.onWord (recordCpLs .cpStr f)

/-- `CP_LD_LIT` (R276). -/
def execCpLdLit (f : CpLs) (s : State) : Host.Outcome State Fault Refusal :=
  s.onWord (recordCpLs .cpLdLit f)

/-- `CP_LD_IMM` (R275). -/
def execCpLdImm (f : CpLs) (s : State) : Host.Outcome State Fault Refusal :=
  s.onWord (recordCpLs .cpLdImm f)

/-- `DCISW`: a CP_MCR record with `cache_op = DCISW` (R281), then the action of R303. -/
def execDcisw (f : CacheCtl) (s : State) : Host.Outcome State Fault Refusal :=
  s.onWord (recordCpRt .cpMcr .dcisw f.asDcisw)

/-- `ICIALLU`: a CP_MCR record with `cache_op = ICIALLU` (R282), then the action of R304. -/
def execIciallu (f : CacheCtl) (s : State) : Host.Outcome State Fault Refusal :=
  s.onWord (recordCpRt .cpMcr .iciallu f.asIciallu)

/-- `CP_MCR` (R277). -/
def execCpMcr (f : CpRt) (s : State) : Host.Outcome State Fault Refusal :=
  s.onWord (recordCpRt .cpMcr .noOp f)

/-- `CP_MRC` (R278). -/
def execCpMrc (f : CpRt) (s : State) : Host.Outcome State Fault Refusal :=
  s.onWord (recordCpRt .cpMrc .noOp f)

end Sys2Proof.Machine
end

