-- ==== Sys2Proof/Machine/Engine.lean ====
section
/-! DEFINITION. Meanings: the ten engine commands (spec R109, R130 to R145), each on one instance alone (R171). A
command that has a result emits it (R34). -/

namespace Sys2Proof.Machine

/-- `init` (R130): a fresh instance with the seed parameter of `BlockInit` (log entry 10), or ConfigError and nothing
else (R10; log entry 11). -/
def execInit (c : CacheId) (cfg : CacheConfig) (s : State) : Host.Outcome State Fault Refusal :=
  s.onBlock fun b =>
    match Cache.init cfg (seedOf b.seeds c) with
    | some fresh => (b.withCache c fresh, [])
    | none => (b, [.configError])

/-- `load` (R137). -/
def execLoad (c : CacheId) (addr : Word) (s : State) : Host.Outcome State Fault Refusal :=
  s.onCache c fun k => ((k.load addr).2, [.access (k.load addr).1])

/-- `store` (R138). -/
def execStore (c : CacheId) (addr : Word) (s : State) : Host.Outcome State Fault Refusal :=
  s.onCache c fun k => ((k.store addr).2, [.access (k.store addr).1])

/-- `invalidate_block` (R139). -/
def execInvalidateBlock (c : CacheId) (row way : Nat) (s : State) : Host.Outcome State Fault Refusal :=
  s.onCache c fun k => (k.invalidateBlock row way, [])

/-- `invalidate_all` (R140). -/
def execInvalidateAll (c : CacheId) (s : State) : Host.Outcome State Fault Refusal :=
  s.onCache c fun k => (k.invalidateAll, [])

/-- `get_addr` (R141). -/
def execGetAddr (c : CacheId) (row way : Nat) (s : State) : Host.Outcome State Fault Refusal :=
  s.onCache c fun k => (k, [.address (k.getAddr row way)])

/-- `is_block_valid` (R142). -/
def execIsBlockValid (c : CacheId) (row way : Nat) (s : State) : Host.Outcome State Fault Refusal :=
  s.onCache c fun k => (k, [.flag (k.isBlockValid row way)])

/-- `validate_injection` (R143). -/
def execValidateInjection (c : CacheId) (row way word : Nat) (s : State) : Host.Outcome State Fault Refusal :=
  s.onCache c fun k => (k, [.validation (k.validateInjection row way word)])

/-- `stats` (R144). -/
def execStats (c : CacheId) (s : State) : Host.Outcome State Fault Refusal :=
  s.onCache c fun k => (k, [.counters k.stats])

/-- `teardown` of one instance (R145). -/
def execTeardown (c : CacheId) (s : State) : Host.Outcome State Fault Refusal :=
  s.onCache c fun k => (k.teardown, [])

end Sys2Proof.Machine
end

