-- ==== Sys2Proof/Machine/Events.lean ====
section
/-! DEFINITION. Meanings: the five host events (spec R110, R300). -/

namespace Sys2Proof.Machine

/-- `BlockInit` (R380): a fresh block, which owes nothing to the old one (R383); on ConfigError the report, and no
block exists. -/
def execBlockInit (cfg : BlockConfig) (s : State) : Host.Outcome State Fault Refusal :=
  match Block.init cfg with
  | some b => .next { s with block := some b }
  | none => .next { s with block := none, outputs := s.outputs ++ [.configError] }

/-- `InsnExec(insn_vaddr, bytes, gpr)` (R91, R301). -/
def execInsnExec (vaddr : Word) (bytes : List Byte) (gpr : Vector Word 16) (s : State) :
    Host.Outcome State Fault Refusal :=
  match bytes with
  | [b0, b1, b2, b3] => State.onWord { s with insnVaddr := vaddr, gpr := gpr } (classify (wordOfBytes b0 b1 b2 b3))
  | _ => State.onWrongSize { s with insnVaddr := vaddr, gpr := gpr }

/-- `MemAccess` (R305): "An ignored event has no output", and neither has another. -/
def execMemAccess (vaddr : Word) (dir : AccessDir) (s : State) : Host.Outcome State Fault Refusal :=
  s.onBlock fun b => (b.memAccess vaddr dir, [])

/-- `LoadPlan` (R331). -/
def execLoadPlan (sleepCycles : Nat) (name : CacheName) (row way word : Nat) (s : State) :
    Host.Outcome State Fault Refusal :=
  s.onBlock fun b => b.loadPlan sleepCycles name row way word

/-- `Teardown` (R384). -/
def execBlockTeardown (s : State) : Host.Outcome State Fault Refusal :=
  s.onBlock fun b => (b.teardown, [])

end Sys2Proof.Machine
end

