-- ==== Sys2Proof/Machine/Extra.lean ====
section
/-! DEFINITION. Meanings: extra load/store (spec R215 to R235). Every meaning is the InsnExec event of its word (R301): its record into `cur`, then the fetch. -/

namespace Sys2Proof.Machine

/-- `STRHT` (R218). -/
def execStrht (f : Xls) (s : State) : Host.Outcome State Fault Refusal :=
  s.onWord (recordXls .strht f)

/-- `LDRHT` (R222). -/
def execLdrht (f : Xls) (s : State) : Host.Outcome State Fault Refusal :=
  s.onWord (recordXls .ldrht f)

/-- `LDRSBT` (R229). -/
def execLdrsbt (f : Xls) (s : State) : Host.Outcome State Fault Refusal :=
  s.onWord (recordXls .ldrsbt f)

/-- `LDRSHT` (R235). -/
def execLdrsht (f : Xls) (s : State) : Host.Outcome State Fault Refusal :=
  s.onWord (recordXls .ldrsht f)

/-- `STRH_REG` (R216). -/
def execStrhReg (f : Xls) (s : State) : Host.Outcome State Fault Refusal :=
  s.onWord (recordXls .strhReg f)

/-- `STRH_IMM` (R217). -/
def execStrhImm (f : Xls) (s : State) : Host.Outcome State Fault Refusal :=
  s.onWord (recordXls .strhImm f)

/-- `LDRH_REG` (R219). -/
def execLdrhReg (f : Xls) (s : State) : Host.Outcome State Fault Refusal :=
  s.onWord (recordXls .ldrhReg f)

/-- `LDRH_LIT` (R221). -/
def execLdrhLit (f : Xls) (s : State) : Host.Outcome State Fault Refusal :=
  s.onWord (recordXls .ldrhLit f)

/-- `LDRH_IMM` (R220). -/
def execLdrhImm (f : Xls) (s : State) : Host.Outcome State Fault Refusal :=
  s.onWord (recordXls .ldrhImm f)

/-- `LDRD_REG` (R223). -/
def execLdrdReg (f : Xls) (s : State) : Host.Outcome State Fault Refusal :=
  s.onWord (recordXls .ldrdReg f)

/-- `LDRD_LIT` (R225). -/
def execLdrdLit (f : Xls) (s : State) : Host.Outcome State Fault Refusal :=
  s.onWord (recordXls .ldrdLit f)

/-- `LDRD_IMM` (R224). -/
def execLdrdImm (f : Xls) (s : State) : Host.Outcome State Fault Refusal :=
  s.onWord (recordXls .ldrdImm f)

/-- `LDRSB_REG` (R226). -/
def execLdrsbReg (f : Xls) (s : State) : Host.Outcome State Fault Refusal :=
  s.onWord (recordXls .ldrsbReg f)

/-- `LDRSB_LIT` (R228). -/
def execLdrsbLit (f : Xls) (s : State) : Host.Outcome State Fault Refusal :=
  s.onWord (recordXls .ldrsbLit f)

/-- `LDRSB_IMM` (R227). -/
def execLdrsbImm (f : Xls) (s : State) : Host.Outcome State Fault Refusal :=
  s.onWord (recordXls .ldrsbImm f)

/-- `STRD_REG` (R230). -/
def execStrdReg (f : Xls) (s : State) : Host.Outcome State Fault Refusal :=
  s.onWord (recordXls .strdReg f)

/-- `STRD_IMM` (R231). -/
def execStrdImm (f : Xls) (s : State) : Host.Outcome State Fault Refusal :=
  s.onWord (recordXls .strdImm f)

/-- `LDRSH_REG` (R232). -/
def execLdrshReg (f : Xls) (s : State) : Host.Outcome State Fault Refusal :=
  s.onWord (recordXls .ldrshReg f)

/-- `LDRSH_LIT` (R234). -/
def execLdrshLit (f : Xls) (s : State) : Host.Outcome State Fault Refusal :=
  s.onWord (recordXls .ldrshLit f)

/-- `LDRSH_IMM` (R233). -/
def execLdrshImm (f : Xls) (s : State) : Host.Outcome State Fault Refusal :=
  s.onWord (recordXls .ldrshImm f)

end Sys2Proof.Machine
end

