-- ==== Sys2Proof/Machine/NotMemory.lean ====
section
/-! DEFINITION. Meanings: words that are not memory operations (spec R101, R250). Every meaning is the InsnExec event of its word (R301): counted and fetched like any other, its memory events ignored (R305). -/

namespace Sys2Proof.Machine

/-- `NOT_MEM`: media instructions (`top = 011`, `w[4] = 1`) (R101). -/
def execNotMemMedia (f : NotMem) (s : State) : Host.Outcome State Fault Refusal :=
  s.onWord (.notMem f.cond)

/-- `NOT_MEM`: multiplies and the unnamed synchronization values (R101). -/
def execNotMemMultiply (f : NotMem) (s : State) : Host.Outcome State Fault Refusal :=
  s.onWord (.notMem f.cond)

/-- `NOT_MEM`: data-processing and miscellaneous (R101). -/
def execNotMemDataProc (f : NotMem) (s : State) : Host.Outcome State Fault Refusal :=
  s.onWord (.notMem f.cond)

/-- `NOT_MEM`: branches (`top = 101`) (R101). -/
def execNotMemBranch (f : NotMem) (s : State) : Host.Outcome State Fault Refusal :=
  s.onWord (.notMem f.cond)

/-- `NOT_MEM`: coprocessor `FP_COPROC` (R98, R99) (R101). -/
def execNotMemFpCoproc (f : NotMem) (s : State) : Host.Outcome State Fault Refusal :=
  s.onWord (.notMem f.cond)

/-- `NOT_MEM`: coprocessor load/store with `(P, U, W) = (0, 0, 0)` (R98) (R101). -/
def execNotMemCoprocHole (f : NotMem) (s : State) : Host.Outcome State Fault Refusal :=
  s.onWord (.notMem f.cond)

/-- `NOT_MEM`: SVC and CDP (R99) (R101). -/
def execNotMemOther (f : NotMem) (s : State) : Host.Outcome State Fault Refusal :=
  s.onWord (.notMem f.cond)

end Sys2Proof.Machine
end

