-- ==== Sys2Proof/Machine/Regular.lean ====
section
/-! DEFINITION. Meanings: regular load/store (spec R190, R200 to R213). Every meaning is the InsnExec event of its word (R301): its record into `cur`, then the fetch. -/

namespace Sys2Proof.Machine

/-- `STRT`, format `A32_LS_IMM` (R202). -/
def execStrtImm (f : LsImm) (s : State) : Host.Outcome State Fault Refusal :=
  s.onWord (recordLsImm .strt f)

/-- `STRT`, format `A32_LS_REG` (R202). -/
def execStrtReg (f : LsReg) (s : State) : Host.Outcome State Fault Refusal :=
  s.onWord (recordLsReg .strt f)

/-- `LDRT`, format `A32_LS_IMM` (R206). -/
def execLdrtImm (f : LsImm) (s : State) : Host.Outcome State Fault Refusal :=
  s.onWord (recordLsImm .ldrt f)

/-- `LDRT`, format `A32_LS_REG` (R206). -/
def execLdrtReg (f : LsReg) (s : State) : Host.Outcome State Fault Refusal :=
  s.onWord (recordLsReg .ldrt f)

/-- `STRBT`, format `A32_LS_IMM` (R209). -/
def execStrbtImm (f : LsImm) (s : State) : Host.Outcome State Fault Refusal :=
  s.onWord (recordLsImm .strbt f)

/-- `STRBT`, format `A32_LS_REG` (R209). -/
def execStrbtReg (f : LsReg) (s : State) : Host.Outcome State Fault Refusal :=
  s.onWord (recordLsReg .strbt f)

/-- `LDRBT`, format `A32_LS_IMM` (R213). -/
def execLdrbtImm (f : LsImm) (s : State) : Host.Outcome State Fault Refusal :=
  s.onWord (recordLsImm .ldrbt f)

/-- `LDRBT`, format `A32_LS_REG` (R213). -/
def execLdrbtReg (f : LsReg) (s : State) : Host.Outcome State Fault Refusal :=
  s.onWord (recordLsReg .ldrbt f)

/-- `STR_REG` (R201). -/
def execStrReg (f : LsReg) (s : State) : Host.Outcome State Fault Refusal :=
  s.onWord (recordLsReg .strReg f)

/-- `STR_IMM` (R200). -/
def execStrImm (f : LsImm) (s : State) : Host.Outcome State Fault Refusal :=
  s.onWord (recordLsImm .strImm f)

/-- `LDR_REG` (R205). -/
def execLdrReg (f : LsReg) (s : State) : Host.Outcome State Fault Refusal :=
  s.onWord (recordLsReg .ldrReg f)

/-- `LDR_LIT` (R204). -/
def execLdrLit (f : LsImm) (s : State) : Host.Outcome State Fault Refusal :=
  s.onWord (recordLsImm .ldrLit f)

/-- `LDR_IMM` (R203). -/
def execLdrImm (f : LsImm) (s : State) : Host.Outcome State Fault Refusal :=
  s.onWord (recordLsImm .ldrImm f)

/-- `STRB_REG` (R208). -/
def execStrbReg (f : LsReg) (s : State) : Host.Outcome State Fault Refusal :=
  s.onWord (recordLsReg .strbReg f)

/-- `STRB_IMM` (R207). -/
def execStrbImm (f : LsImm) (s : State) : Host.Outcome State Fault Refusal :=
  s.onWord (recordLsImm .strbImm f)

/-- `LDRB_REG` (R212). -/
def execLdrbReg (f : LsReg) (s : State) : Host.Outcome State Fault Refusal :=
  s.onWord (recordLsReg .ldrbReg f)

/-- `LDRB_LIT` (R211). -/
def execLdrbLit (f : LsImm) (s : State) : Host.Outcome State Fault Refusal :=
  s.onWord (recordLsImm .ldrbLit f)

/-- `LDRB_IMM` (R210). -/
def execLdrbImm (f : LsImm) (s : State) : Host.Outcome State Fault Refusal :=
  s.onWord (recordLsImm .ldrbImm f)

end Sys2Proof.Machine
end

