-- ==== Sys2Proof/Machine/Synchronization.lean ====
section
/-! DEFINITION. Meanings: synchronization primitives (spec R239 to R249). No monitor, no success flag (R73): every meaning is the InsnExec event of its word (R301). -/

namespace Sys2Proof.Machine

/-- `SWP` (R240). -/
def execSwp (f : Sync) (s : State) : Host.Outcome State Fault Refusal :=
  s.onWord (recordSync .swp 0x0#4 f)

/-- `SWPB` (R241). -/
def execSwpb (f : Sync) (s : State) : Host.Outcome State Fault Refusal :=
  s.onWord (recordSync .swpb 0x4#4 f)

/-- `STREX` (R242). -/
def execStrex (f : Sync) (s : State) : Host.Outcome State Fault Refusal :=
  s.onWord (recordSync .strex 0x8#4 f)

/-- `LDREX` (R243). -/
def execLdrex (f : Sync) (s : State) : Host.Outcome State Fault Refusal :=
  s.onWord (recordSync .ldrex 0x9#4 f)

/-- `STREXD` (R244). -/
def execStrexd (f : Sync) (s : State) : Host.Outcome State Fault Refusal :=
  s.onWord (recordSync .strexd 0xA#4 f)

/-- `LDREXD` (R245). -/
def execLdrexd (f : Sync) (s : State) : Host.Outcome State Fault Refusal :=
  s.onWord (recordSync .ldrexd 0xB#4 f)

/-- `STREXB` (R246). -/
def execStrexb (f : Sync) (s : State) : Host.Outcome State Fault Refusal :=
  s.onWord (recordSync .strexb 0xC#4 f)

/-- `LDREXB` (R247). -/
def execLdrexb (f : Sync) (s : State) : Host.Outcome State Fault Refusal :=
  s.onWord (recordSync .ldrexb 0xD#4 f)

/-- `STREXH` (R248). -/
def execStrexh (f : Sync) (s : State) : Host.Outcome State Fault Refusal :=
  s.onWord (recordSync .strexh 0xE#4 f)

/-- `LDREXH` (R249). -/
def execLdrexh (f : Sync) (s : State) : Host.Outcome State Fault Refusal :=
  s.onWord (recordSync .ldrexh 0xF#4 f)

end Sys2Proof.Machine
end

