-- ==== Sys2Proof/Machine/Dispatch.lean ====
section
/-! DEFINITION. Dispatch: one arm per constructor of `Instr`, each one direct call of its meaning. -/

namespace Sys2Proof.Machine

/-- The meaning of an instruction in a state. -/
def exec (i : Instr) (s : State) : Host.Outcome State Fault Refusal :=
  match i with
  | .strtImm f => Sys2Proof.Machine.execStrtImm f s
  | .strtReg f => Sys2Proof.Machine.execStrtReg f s
  | .ldrtImm f => Sys2Proof.Machine.execLdrtImm f s
  | .ldrtReg f => Sys2Proof.Machine.execLdrtReg f s
  | .strbtImm f => Sys2Proof.Machine.execStrbtImm f s
  | .strbtReg f => Sys2Proof.Machine.execStrbtReg f s
  | .ldrbtImm f => Sys2Proof.Machine.execLdrbtImm f s
  | .ldrbtReg f => Sys2Proof.Machine.execLdrbtReg f s
  | .strReg f => Sys2Proof.Machine.execStrReg f s
  | .strImm f => Sys2Proof.Machine.execStrImm f s
  | .ldrReg f => Sys2Proof.Machine.execLdrReg f s
  | .ldrLit f => Sys2Proof.Machine.execLdrLit f s
  | .ldrImm f => Sys2Proof.Machine.execLdrImm f s
  | .strbReg f => Sys2Proof.Machine.execStrbReg f s
  | .strbImm f => Sys2Proof.Machine.execStrbImm f s
  | .ldrbReg f => Sys2Proof.Machine.execLdrbReg f s
  | .ldrbLit f => Sys2Proof.Machine.execLdrbLit f s
  | .ldrbImm f => Sys2Proof.Machine.execLdrbImm f s
  | .notMemMedia f => Sys2Proof.Machine.execNotMemMedia f s
  | .swp f => Sys2Proof.Machine.execSwp f s
  | .swpb f => Sys2Proof.Machine.execSwpb f s
  | .strex f => Sys2Proof.Machine.execStrex f s
  | .ldrex f => Sys2Proof.Machine.execLdrex f s
  | .strexd f => Sys2Proof.Machine.execStrexd f s
  | .ldrexd f => Sys2Proof.Machine.execLdrexd f s
  | .strexb f => Sys2Proof.Machine.execStrexb f s
  | .ldrexb f => Sys2Proof.Machine.execLdrexb f s
  | .strexh f => Sys2Proof.Machine.execStrexh f s
  | .ldrexh f => Sys2Proof.Machine.execLdrexh f s
  | .notMemMultiply f => Sys2Proof.Machine.execNotMemMultiply f s
  | .strht f => Sys2Proof.Machine.execStrht f s
  | .ldrht f => Sys2Proof.Machine.execLdrht f s
  | .ldrsbt f => Sys2Proof.Machine.execLdrsbt f s
  | .ldrsht f => Sys2Proof.Machine.execLdrsht f s
  | .strhReg f => Sys2Proof.Machine.execStrhReg f s
  | .strhImm f => Sys2Proof.Machine.execStrhImm f s
  | .ldrhReg f => Sys2Proof.Machine.execLdrhReg f s
  | .ldrhLit f => Sys2Proof.Machine.execLdrhLit f s
  | .ldrhImm f => Sys2Proof.Machine.execLdrhImm f s
  | .ldrdReg f => Sys2Proof.Machine.execLdrdReg f s
  | .ldrdLit f => Sys2Proof.Machine.execLdrdLit f s
  | .ldrdImm f => Sys2Proof.Machine.execLdrdImm f s
  | .ldrsbReg f => Sys2Proof.Machine.execLdrsbReg f s
  | .ldrsbLit f => Sys2Proof.Machine.execLdrsbLit f s
  | .ldrsbImm f => Sys2Proof.Machine.execLdrsbImm f s
  | .strdReg f => Sys2Proof.Machine.execStrdReg f s
  | .strdImm f => Sys2Proof.Machine.execStrdImm f s
  | .ldrshReg f => Sys2Proof.Machine.execLdrshReg f s
  | .ldrshLit f => Sys2Proof.Machine.execLdrshLit f s
  | .ldrshImm f => Sys2Proof.Machine.execLdrshImm f s
  | .notMemDataProc f => Sys2Proof.Machine.execNotMemDataProc f s
  | .stmUser f => Sys2Proof.Machine.execStmUser f s
  | .ldmExret f => Sys2Proof.Machine.execLdmExret f s
  | .ldmUser f => Sys2Proof.Machine.execLdmUser f s
  | .popMult f => Sys2Proof.Machine.execPopMult f s
  | .pushMult f => Sys2Proof.Machine.execPushMult f s
  | .stmda f => Sys2Proof.Machine.execStmda f s
  | .ldmda f => Sys2Proof.Machine.execLdmda f s
  | .stmia f => Sys2Proof.Machine.execStmia f s
  | .ldmia f => Sys2Proof.Machine.execLdmia f s
  | .stmdb f => Sys2Proof.Machine.execStmdb f s
  | .ldmdb f => Sys2Proof.Machine.execLdmdb f s
  | .stmib f => Sys2Proof.Machine.execStmib f s
  | .ldmib f => Sys2Proof.Machine.execLdmib f s
  | .notMemBranch f => Sys2Proof.Machine.execNotMemBranch f s
  | .notMemFpCoproc f => Sys2Proof.Machine.execNotMemFpCoproc f s
  | .notMemCoprocHole f => Sys2Proof.Machine.execNotMemCoprocHole f s
  | .cpStr f => Sys2Proof.Machine.execCpStr f s
  | .cpLdLit f => Sys2Proof.Machine.execCpLdLit f s
  | .cpLdImm f => Sys2Proof.Machine.execCpLdImm f s
  | .dcisw f => Sys2Proof.Machine.execDcisw f s
  | .iciallu f => Sys2Proof.Machine.execIciallu f s
  | .cpMcr f => Sys2Proof.Machine.execCpMcr f s
  | .cpMrc f => Sys2Proof.Machine.execCpMrc f s
  | .notMemOther f => Sys2Proof.Machine.execNotMemOther f s
  | .init c cfg => Sys2Proof.Machine.execInit c cfg s
  | .load c addr => Sys2Proof.Machine.execLoad c addr s
  | .store c addr => Sys2Proof.Machine.execStore c addr s
  | .invalidateBlock c row way => Sys2Proof.Machine.execInvalidateBlock c row way s
  | .invalidateAll c => Sys2Proof.Machine.execInvalidateAll c s
  | .getAddr c row way => Sys2Proof.Machine.execGetAddr c row way s
  | .isBlockValid c row way => Sys2Proof.Machine.execIsBlockValid c row way s
  | .validateInjection c row way word => Sys2Proof.Machine.execValidateInjection c row way word s
  | .stats c => Sys2Proof.Machine.execStats c s
  | .teardown c => Sys2Proof.Machine.execTeardown c s
  | .blockInit cfg => Sys2Proof.Machine.execBlockInit cfg s
  | .insnExec vaddr bytes gpr => Sys2Proof.Machine.execInsnExec vaddr bytes gpr s
  | .memAccess vaddr dir => Sys2Proof.Machine.execMemAccess vaddr dir s
  | .loadPlan sleepCycles name row way word => Sys2Proof.Machine.execLoadPlan sleepCycles name row way word s
  | .blockTeardown => Sys2Proof.Machine.execBlockTeardown s

end Sys2Proof.Machine
end

