-- ==== Sys2Proof/Machine/Step.lean ====
section
/-! DEFINITION. The step: the complete processing of one request of the host (spec R12, R300). -/

namespace Sys2Proof.Machine

/-- One step. With no request presented nothing happens (R300, R382; log entry 3). A reserved code is refused: the
request is taken, nothing else changes and there is no result (R109, R110, U13; log entry 4). -/
def step (s : State) : Host.Outcome State Fault Refusal :=
  match s.inbox with
  | [] => .next s
  | q :: rest =>
    match decode q with
    | .instr i => exec i (s.accept q rest)
    | .reservedCommand _ => .next { s with inbox := rest }
    | .reservedEvent _ => .next { s with inbox := rest }

/-- `s` with the instruction of a table row's word presented as the first request; an instruction word is presented
at the address and with the register values that stand on the port lines. -/
def State.withFetchWord (s : State) (nbits w : Nat) : State :=
  match requestOfTableWord nbits w s.insnVaddr s.gpr with
  | some q => { s with inbox := q :: s.inbox }
  | none => s

end Sys2Proof.Machine
end

