-- ==== Sys2Proof/Safety.lean ====
section
/-! DEFINITION. What a sound machine is, in the terms the statements use: the structural invariants of one cache
(spec R22, R26, R27), the counter laws of the driver (R179, R312), the range of a stored plan (R331, R334), and the
effects of the fetch and of the records written out for the statements. -/

namespace Sys2Proof.Machine

/-! ### Structural invariants of a cache (R21, R22, R26, R27) -/

/-- A power of two (R130), by its exponent (R9). -/
def PowerOfTwo (n : Nat) : Prop := ∃ k, n = 2 ^ k

/-- The preconditions of `init` (R130): three non-zero powers of two, `block * assoc` divides `size`. -/
def GoodConfig (cfg : CacheConfig) : Prop :=
  PowerOfTwo cfg.size ∧ PowerOfTwo cfg.assoc ∧ PowerOfTwo cfg.block ∧ cfg.assoc * cfg.block ∣ cfg.size

/-- The cursors of a ROUND_ROBIN cache: canonical, one per row at most, each below `assoc` (R23, R26(d)). -/
def ReplState.Sound (r : ReplState) (rows assoc : Nat) : Prop :=
  match r with
  | .roundRobin nextWay => Memory.wf 0 nextWay = true ∧ ∀ e ∈ nextWay, e.1 < rows ∧ e.2 < assoc
  | .random _ => True

/-- The structural invariants of one instance. -/
structure Cache.Sound (c : Cache) : Prop where
  /-- R26(a): powers of two whose product is the size. -/
  assoc_pow : PowerOfTwo c.assoc
  block_pow : c.blockSize = 2 ^ c.blockOffsetBits
  rows_pow : c.rows = 2 ^ c.rowBits
  geometry : c.rows * c.assoc * c.blockSize = c.size
  /-- The tag and valid arrays are canonical and lie inside `rows * assoc` entries (R22). -/
  entries_wf : Memory.wf .unlisted c.entries = true
  entries_inside : ∀ e ∈ c.entries, e.1 < c.rows * c.assoc
  /-- R26(b): within one row no two valid entries hold the same tag. -/
  tags_distinct : ∀ row w1 w2, row < c.rows → w1 < c.assoc → w2 < c.assoc →
    (c.entry row w1).valid = true → (c.entry row w2).valid = true → (c.entry row w1).tag = (c.entry row w2).tag →
    w1 = w2
  /-- R22: only the low `XLEN - tag_shift` bits of a tag are ever non-zero. -/
  tags_narrow : ∀ row way, row < c.rows → way < c.assoc →
    (c.entry row way).tag.toNat < 2 ^ (Config.xlen - c.tagShift)
  /-- R26(d). -/
  repl_sound : c.repl.Sound c.rows c.assoc
  /-- R27: every counted miss that allocates filled one slot. -/
  fills_counted : c.counters.compulsoryMisses + c.counters.evictions
    = c.counters.loadMisses + (if c.alloc = .writeAllocate then c.counters.storeMisses else 0)

/-- A record's category and direction are those of its identifier (R105, R106). -/
def Classification.Sound (r : Classification) : Prop :=
  r.category = r.id.category ∧ r.direction = r.id.direction

/-- The structural invariants of the block. -/
structure Block.Sound (b : Block) : Prop where
  icache_sound : b.icache.Sound
  dcache_sound : b.dcache.Sound
  l2_sound : b.l2.Sound
  cur_sound : b.cur.Sound

/-- The machine's block, if it exists, is sound. -/
def State.Sound (s : State) : Prop := ∀ b, s.block = some b → b.Sound

/-! ### Counter laws (R179, R312) -/

/-- While all caches are live, the counter laws of the driver (R312) and of the hierarchy (R179). -/
def Block.CounterLaws (b : Block) : Prop :=
  b.icache.live = true → b.dcache.live = true → b.l2.live = true →
    b.insnCount = b.icache.counters.loadHits + b.icache.counters.loadMisses
    ∧ b.loadCount = b.dcache.counters.loadHits + b.dcache.counters.loadMisses
    ∧ b.storeCount = b.dcache.counters.storeHits + b.dcache.counters.storeMisses
    ∧ b.icache.counters.storeHits = 0 ∧ b.icache.counters.storeMisses = 0
    ∧ b.l2.counters.loadHits + b.l2.counters.loadMisses
        = b.icache.counters.loadMisses + b.dcache.counters.loadMisses
    ∧ b.l2.counters.storeHits + b.l2.counters.storeMisses = b.dcache.counters.storeMisses

/-- The machine's block, if it exists, obeys the counter laws. -/
def State.CounterLaws (s : State) : Prop := ∀ b, s.block = some b → b.CounterLaws

/-- The first request, if there is one, is an event and not an engine command: "only driver events act" (R312). -/
def State.DrivenByEvents (s : State) : Prop :=
  match s.inbox with
  | [] => True
  | .event _ _ :: _ => True
  | .command _ _ :: _ => False

/-! ### The seed of a RANDOM cache (R136, R390) -/

/-- The seed after `n` victim selections: `SEED0 * 48271^n` modulo 2^32 (R136). -/
def lcgSeed (seed0 : Word) (n : Nat) : Word := BitVec.ofNat 32 (seed0.toNat * 48271 ^ n)

/-- Every RANDOM cache's seed is its `SEED0` after as many victim selections as the cache has counted evictions: "a
victim fill always counts as an eviction" (R134). -/
def Block.SeedLaw (b : Block) : Prop :=
  ∀ c seed, (b.cache c).repl = .random seed →
    seed = lcgSeed (seedOf b.seeds c) (b.cache c).counters.evictions

/-- The machine's block, if it exists, obeys the seed law. -/
def State.SeedLaw (s : State) : Prop := ∀ b, s.block = some b → b.SeedLaw

/-! ### A fill, read entry by entry (R134 to R136) -/

/-- `k'` is `k` after a miss on `(row, tag)` that allocates, where `n` are the counters after counting the miss: one way
of the row holds the line, every other entry is as it was; the way is the lowest invalid one, and the fill is compulsory,
or every way was valid, the way is the victim, and the fill is an eviction. Nothing else changes. -/
def Cache.Filled (k : Cache) (n : Counters) (row : Nat) (tag : Word) (k' : Cache) : Prop :=
  ∃ way, way < k.assoc
    ∧ k' = { k with entries := k'.entries, repl := k'.repl, counters := k'.counters }
    ∧ (∀ r w, r < k.rows → w < k.assoc →
        k'.entry r w = if r = row ∧ w = way then { tag := tag, valid := true } else k.entry r w)
    ∧ (((k.entry row way).valid = false ∧ (∀ v < way, (k.entry row v).valid = true)
          ∧ k'.repl = k.repl ∧ k'.counters = { n with compulsoryMisses := n.compulsoryMisses + 1 })
      ∨ ((∀ v < k.assoc, (k.entry row v).valid = true)
          ∧ k'.counters = { n with evictions := n.evictions + 1 }
          ∧ match k.repl with
            | .roundRobin cursors =>
              way = Memory.read 0 cursors row
              ∧ ∃ cursors', k'.repl = .roundRobin cursors'
                ∧ ∀ r, Memory.read 0 cursors' r = if r = row then (way + 1) % k.assoc else Memory.read 0 cursors r
            | .random seed =>
              way = seed.toNat * 48271 % 2 ^ 32 % k.assoc
              ∧ k'.repl = .random (BitVec.ofNat 32 (seed.toNat * 48271))))

/-! ### The stored plan (R331, R334) -/

/-- A stored plan is in range of the cache it names: "a plan valid at receipt is still in range at firing" (R331). -/
def Block.PlanInRange (b : Block) : Prop :=
  ∀ p, b.plan = some p →
    p.row < (b.cache p.target).rows ∧ p.way < (b.cache p.target).assoc
    ∧ p.wordInBlock < (b.cache p.target).blockSize / 4

/-- The machine's stored plan, if there is one, is in range. -/
def State.PlanInRange (s : State) : Prop := ∀ b, s.block = some b → b.PlanInRange

/-- No output of the list is an injection report (R335). -/
def NoReport (l : List Output) : Prop := ∀ n a ok, Output.injectionReport n a ok ∉ l

/-! ### Which instructions -/

/-- The instruction is an engine `init` or `BlockInit`: the two that create a cache (R25, R130, R380). -/
def createsCache (i : Instr) : Bool :=
  match i with
  | .init _ _ => true
  | .blockInit _ => true
  | _ => false

/-- The instruction is a word row: it has a word (R94 to R99). -/
def isWordRow (i : Instr) : Bool := (encodeWord i).isSome

/-! ### The fetch of an instruction, written out (R301 part 2, R302, R172, R333 to R335) -/

/-- `text_start <= a < text_end`, unsigned (R31). -/
abbrev InText (b : Block) (a : Word) : Prop := b.textStart.toNat ≤ a.toNat ∧ a.toNat < b.textEnd.toNat

/-- The block after counting the instruction and loading its line: the I-cache by one load, L2 by one load of the same
address if the I-cache missed, nothing else (R172, R302). -/
def countedFetch (b : Block) (v : Word) : Block :=
  { b with
    insnCount := b.insnCount + 1
    icache := (b.icache.load v).2
    l2 := if (b.icache.load v).1 = .miss then (b.l2.load v).2 else b.l2 }

/-- The injection report of plan `p` in block `b` (R333 to R335, R337): the count, the slot's line address plus the
word offset, or the word offset alone where the slot is not valid, and the slot's validity. -/
def reportOf (b : Block) (p : Plan) : Output :=
  let c := b.cache p.target
  let ok := c.live && decide (p.row < c.rows) && decide (p.way < c.assoc) && (c.entry p.row p.way).valid
  .injectionReport b.insnCount
    ((if ok then (c.entry p.row p.way).tag <<< (c.blockOffsetBits + c.rowBits)
        ||| BitVec.ofNat 32 p.row <<< c.blockOffsetBits else 0#32) + BitVec.ofNat 32 (4 * p.wordInBlock)) ok

/-- What the fetch part of InsnExec at address `v` makes of the block, and its outputs. -/
def fetchEffect (b : Block) (v : Word) : Block × List Output :=
  if InText b v then
    match b.injState, b.plan with
    | .armed, some p =>
      if p.sleepCycles ≤ b.insnCount + 1 then
        ({ countedFetch b v with injState := .fired }, [reportOf (countedFetch b v) p])
      else (countedFetch b v, [])
    | _, _ => (countedFetch b v, [])
  else (b, [])

/-- The machine after an InsnExec with record `r` whose cache-control part does nothing (R301): the record in `cur`,
the fetch, its outputs appended; everything else as it was. -/
def afterFetch (s : State) (b : Block) (r : Classification) : State :=
  let done := fetchEffect { b with cur := r } s.insnVaddr
  { s with block := some done.1, outputs := s.outputs ++ done.2 }

end Sys2Proof.Machine
end

