-- ==== Sys2Proof/Certificates/Slice0/Obligations.lean ====
section
/-! DEFINITION. The statements for the provers, about the machine of spec/: the encoding (30_encoding.md), the step
(44_access_driver.md), every instruction's effect, the laws of the caches (40, 41), the invariants every step keeps. -/

section
open Sys2Proof Sys2Proof.Machine

/-! ### Decoding and encoding -/

/-- Decoding an encoded well-formed instruction gives it back: every word row, command and event, every operand at every
value the encoding admits (R94 to R99, R109, R110). -/
def Obligations.DecodeUndoesEncode : Prop :=
  ∀ i : Instr, WellFormed i = true → decode (encode i) = .instr i

/-- Every 32-bit word decodes to a well-formed word row whose encoding is that word: no bit of a word is dropped (R100,
R107). -/
def Obligations.EncodeUndoesDecode : Prop :=
  ∀ w : Word, WellFormed (decodeWord w) = true ∧ encodeWord (decodeWord w) = some w

/-- The opcode table read top to bottom, first matching row winning, is the decoder: `Instr` lists its constructors in
the table's order (R100). -/
def Obligations.OpcodeTableIsTheDecoder : Prop :=
  ∀ w : Word, firstMatch w = (decodeWord w).ctorIdx

/-- InsnExec of the four bytes of a word, classified by the decode procedure of R100, is the meaning of the row the
decoder reads, at the address and register values presented (R90, R100, R301), which stand on the model's port lines (log
entry 7). -/
def Obligations.ClassifierAgreesWithDecoder : Prop :=
  ∀ (w v : Word) (g : Vector Word 16) (s : State),
    exec (.insnExec v (bytesOfWord w) g) s = exec (decodeWord w) { s with insnVaddr := v, gpr := g }

/-- Words of R200, R205, R211, R221, R240, R249, R264, R272, R276, R281, R282, R278 and of two words that are not memory
operations, bit by bit from the spec's formats, decode to their instructions. -/
def Obligations.SampleWordsDecode : Prop :=
  decodeWord 0xE5812004#32 = .strImm { cond := 0xE, p := true, u := true, w := false, rn := 1, rt := 2, imm12 := 4 }
  ∧ decodeWord 0xE7912103#32 =
      .ldrReg { cond := 0xE, p := true, u := true, w := false, rn := 1, rt := 2, imm5 := 2, shiftType := 0, rm := 3 }
  ∧ decodeWord 0xE5DF2004#32 = .ldrbLit { cond := 0xE, p := true, u := true, w := false, rn := 15, rt := 2, imm12 := 4 }
  ∧ decodeWord 0xE1DF20B4#32 =
      .ldrhLit { cond := 0xE, p := true, u := true, i := true, w := false, rn := 15, rt := 2, hi := 0, lo := 4 }
  ∧ decodeWord 0xE1012093#32 = .swp { cond := 0xE, rn := 1, rd := 2, ign := 0, rm := 3 }
  ∧ decodeWord 0xE1F12F9F#32 = .ldrexh { cond := 0xE, rn := 1, rd := 2, ign := 15, rm := 15 }
  ∧ decodeWord 0xE8BD000F#32 =
      .popMult { cond := 0xE, p := false, u := true, s := false, w := true, rn := 13, registerList := 0x000F }
  ∧ decodeWord 0xE8FD8000#32 =
      .ldmExret { cond := 0xE, p := false, u := true, s := true, w := true, rn := 13, registerList := 0x8000 }
  ∧ decodeWord 0xED9F2E02#32 =
      .cpLdLit { cond := 0xE, p := true, u := true, d := false, w := false, rn := 15, crd := 2, coproc := 14, imm8 := 2 }
  ∧ decodeWord 0x1E073E56#32 = .dcisw { cond := 1, rt := 3 }
  ∧ decodeWord 0xEE070E15#32 = .iciallu { cond := 0xE, rt := 0 }
  ∧ decodeWord 0xEE170E56#32 = .cpMrc { cond := 0xE, opc1 := 0, crn := 7, rt := 0, coproc := 14, opc2 := 2, crm := 6 }
  ∧ decodeWord 0xE0010293#32 = .notMemMultiply { cond := 0xE, body := 0x0010293 }
  ∧ decodeWord 0xEAFFFFFE#32 = .notMemBranch { cond := 0xE, body := 0xAFFFFFE }

/-- Re-encoding the record of a regular or extra word gives the word (R113), but for what the record does not keep:
`w[11:8]` of the extra register form, and `W` of LDRD and STRD with `P = 0`, the model's reading (log entry 21). -/
def Obligations.RecordRebuildsWord : Prop :=
  ∀ w : Word,
    let r := classify w
    (r.category = .regular ∨ r.category = .extra) →
    (r.format = some .xlsReg → w.extractLsb' 8 4 = 0#4) →
    ((r.id = .ldrdReg ∨ r.id = .ldrdImm ∨ r.id = .ldrdLit ∨ r.id = .strdReg ∨ r.id = .strdImm) →
      ¬(w.getLsbD 24 = false ∧ w.getLsbD 21 = true)) →
    r.rebuild = some w

/-- `cond` is extracted into the record and never evaluated (R102, R308): two words that differ in `cond` alone act alike
on the machine, cache control included, and leave records that differ in `cond` alone. -/
def Obligations.ConditionIsNotEvaluated : Prop :=
  ∀ (w : Word) (c : BitVec 4) (v : Word) (g : Vector Word 16) (s t : State),
    exec (.insnExec v (bytesOfWord w) g) s = .next t →
    exec (.insnExec v (bytesOfWord (c ++ w.extractLsb' 0 28)) g) s
      = .next { t with block := t.block.map fun b => { b with cur := { b.cur with cond := c } } }

/-! ### The step -/

/-- "Every operation is total: it is defined for every argument value and every state, and it returns" (R11): where a block
exists, every instruction answers a next state; outputs are only appended, the requests not yet processed stay. -/
def Obligations.EveryInstructionCompletesOnABlock : Prop :=
  ∀ (i : Instr) (s : State) (b : Block), s.block = some b →
    ∃ (t : State) (new : List Output), exec i s = .next t ∧ t.outputs = s.outputs ++ new ∧ t.inbox = s.inbox

/-- Where no block exists ("Events before `BlockInit`, or after a failed one, have no defined meaning", R383), every
instruction but BlockInit stops with the fault that says so. For the engine commands it is the model's reading (log
entry 9). -/
def Obligations.WithoutABlockOnlyBlockInitRuns : Prop :=
  ∀ (i : Instr) (s : State), s.block = none → (∀ cfg, i ≠ .blockInit cfg) → exec i s = .fault .noBlock

/-- The step takes the first request and runs the instruction it decodes to; an InsnExec event's address and register
values stand on the port lines while it runs (R12, R300, R301). The request queue and the port lines are the model's own
(log entries 1, 7). -/
def Obligations.StepRunsDecodedInstruction : Prop :=
  ∀ (s : State) (q : Request) (rest : List Request) (i : Instr),
    s.inbox = q :: rest → decode q = .instr i →
    (∀ a, q = .event 1#3 a → step s = exec i { s with inbox := rest, insnVaddr := a.vaddr, gpr := a.gpr })
    ∧ ((∀ a, q ≠ .event 1#3 a) → step s = exec i { s with inbox := rest })

/-- An InsnExec event whose bytes are `b0, b1, b2, b3` in increasing address order runs the row of the word
`b0 | b1 << 8 | b2 << 16 | b3 << 24` (R60, R90, R301). The queue and the port lines are the model's own (log entries 1, 7). -/
def Obligations.StepRunsTheLittleEndianWord : Prop :=
  ∀ (s : State) (a : EventArgs) (rest : List Request) (b0 b1 b2 b3 : Byte),
    s.inbox = .event 1#3 a :: rest → a.bytes = [b0, b1, b2, b3] →
    step s = exec
      (decodeWord (BitVec.ofNat 32 (b0.toNat + b1.toNat * 2 ^ 8 + b2.toNat * 2 ^ 16 + b3.toNat * 2 ^ 24)))
      { s with inbox := rest, insnVaddr := a.vaddr, gpr := a.gpr }

/-- A reserved command (`op` 10 to 15, `cache_select` 3) or event code (5 to 7) "is refused: no state change, no result"
(R109, R110); with no request "nothing happens" (R300). That the refused request leaves the queue is the model's (log
entries 3, 4). -/
def Obligations.ReservedCodesAndIdleStepsChangeNothing : Prop :=
  (∀ (s : State) (code : BitVec 6) (a : CommandArgs) (rest : List Request),
    s.inbox = .command code a :: rest → (10 ≤ code.toNat % 16 ∨ code.toNat / 16 = 3) →
    step s = .next { s with inbox := rest })
  ∧ (∀ (s : State) (code : BitVec 3) (a : EventArgs) (rest : List Request),
    s.inbox = .event code a :: rest → 5 ≤ code.toNat → step s = .next { s with inbox := rest })
  ∧ (∀ s : State, s.inbox = [] → step s = .next s)

/-! ### Words: the record of each row, the fetch, and nothing else (R301) -/

/-- Regular load/store, immediate formats (R190, R200, R202 to R204, R206, R207, R209 to R211, R213). -/
def Obligations.RegularImmediateWordsComplete : Prop :=
  ∀ (f : LsImm) (s : State) (b : Block), s.block = some b →
    let record := fun (id : Identifier) (d : Direction) =>
      ({ id := id, category := .regular, direction := d, format := some .lsImm, cond := f.cond
         fields := .regularImm f.rn f.rt { add := f.u, index := f.p, wback := !f.p || f.w } f.imm12
           (f.imm12.setWidth 32) } : Classification)
    exec (.strtImm f) s = .next (afterFetch s b (record .strt .store))
    ∧ exec (.ldrtImm f) s = .next (afterFetch s b (record .ldrt .load))
    ∧ exec (.strbtImm f) s = .next (afterFetch s b (record .strbt .store))
    ∧ exec (.ldrbtImm f) s = .next (afterFetch s b (record .ldrbt .load))
    ∧ exec (.strImm f) s = .next (afterFetch s b (record .strImm .store))
    ∧ exec (.ldrLit f) s = .next (afterFetch s b (record .ldrLit .load))
    ∧ exec (.ldrImm f) s = .next (afterFetch s b (record .ldrImm .load))
    ∧ exec (.strbImm f) s = .next (afterFetch s b (record .strbImm .store))
    ∧ exec (.ldrbLit f) s = .next (afterFetch s b (record .ldrbLit .load))
    ∧ exec (.ldrbImm f) s = .next (afterFetch s b (record .ldrbImm .load))

/-- Regular load/store, register format (R190, R201, R202, R205, R206, R208, R209, R212, R213). -/
def Obligations.RegularRegisterWordsComplete : Prop :=
  ∀ (f : LsReg) (s : State) (b : Block), s.block = some b →
    let record := fun (id : Identifier) (d : Direction) =>
      ({ id := id, category := .regular, direction := d, format := some .lsReg, cond := f.cond
         fields := .regularReg f.rn f.rt { add := f.u, index := f.p, wback := !f.p || f.w } f.rm f.imm5
           f.shiftType } : Classification)
    exec (.strtReg f) s = .next (afterFetch s b (record .strt .store))
    ∧ exec (.ldrtReg f) s = .next (afterFetch s b (record .ldrt .load))
    ∧ exec (.strbtReg f) s = .next (afterFetch s b (record .strbt .store))
    ∧ exec (.ldrbtReg f) s = .next (afterFetch s b (record .ldrbt .load))
    ∧ exec (.strReg f) s = .next (afterFetch s b (record .strReg .store))
    ∧ exec (.ldrReg f) s = .next (afterFetch s b (record .ldrReg .load))
    ∧ exec (.strbReg f) s = .next (afterFetch s b (record .strbReg .store))
    ∧ exec (.ldrbReg f) s = .next (afterFetch s b (record .ldrbReg .load))

/-- Extra load/store: the field set follows `w[22]`, LDRD is a load (R215 to R235). -/
def Obligations.ExtraWordsComplete : Prop :=
  ∀ (f : Xls) (s : State) (b : Block), s.block = some b →
    let flags : AddrFlags := { add := f.u, index := f.p, wback := !f.p || f.w }
    let record := fun (id : Identifier) (d : Direction) =>
      ({ id := id, category := .extra, direction := d
         format := some (if f.i = true then .xlsImm else .xlsReg), cond := f.cond
         fields :=
           if f.i = true then .extraImm f.rn f.rt flags (f.hi ++ f.lo) ((f.hi ++ f.lo).setWidth 32)
           else .extraReg f.rn f.rt flags f.lo } : Classification)
    exec (.strht f) s = .next (afterFetch s b (record .strht .store))
    ∧ exec (.ldrht f) s = .next (afterFetch s b (record .ldrht .load))
    ∧ exec (.ldrsbt f) s = .next (afterFetch s b (record .ldrsbt .load))
    ∧ exec (.ldrsht f) s = .next (afterFetch s b (record .ldrsht .load))
    ∧ exec (.strhReg f) s = .next (afterFetch s b (record .strhReg .store))
    ∧ exec (.strhImm f) s = .next (afterFetch s b (record .strhImm .store))
    ∧ exec (.ldrhReg f) s = .next (afterFetch s b (record .ldrhReg .load))
    ∧ exec (.ldrhLit f) s = .next (afterFetch s b (record .ldrhLit .load))
    ∧ exec (.ldrhImm f) s = .next (afterFetch s b (record .ldrhImm .load))
    ∧ exec (.ldrdReg f) s = .next (afterFetch s b (record .ldrdReg .load))
    ∧ exec (.ldrdLit f) s = .next (afterFetch s b (record .ldrdLit .load))
    ∧ exec (.ldrdImm f) s = .next (afterFetch s b (record .ldrdImm .load))
    ∧ exec (.ldrsbReg f) s = .next (afterFetch s b (record .ldrsbReg .load))
    ∧ exec (.ldrsbLit f) s = .next (afterFetch s b (record .ldrsbLit .load))
    ∧ exec (.ldrsbImm f) s = .next (afterFetch s b (record .ldrsbImm .load))
    ∧ exec (.strdReg f) s = .next (afterFetch s b (record .strdReg .store))
    ∧ exec (.strdImm f) s = .next (afterFetch s b (record .strdImm .store))
    ∧ exec (.ldrshReg f) s = .next (afterFetch s b (record .ldrshReg .load))
    ∧ exec (.ldrshLit f) s = .next (afterFetch s b (record .ldrshLit .load))
    ∧ exec (.ldrshImm f) s = .next (afterFetch s b (record .ldrshImm .load))

/-- Synchronization primitives: SWP and SWPB are LoadStore, `w[11:8]` is not kept (R239 to R249). -/
def Obligations.SynchronizationWordsComplete : Prop :=
  ∀ (f : Sync) (s : State) (b : Block), s.block = some b →
    let record := fun (id : Identifier) (d : Direction) (op : BitVec 4) =>
      ({ id := id, category := .sync, direction := d, format := some .sync, cond := f.cond
         fields := .sync op f.rn f.rd f.rm } : Classification)
    exec (.swp f) s = .next (afterFetch s b (record .swp .loadStore 0x0#4))
    ∧ exec (.swpb f) s = .next (afterFetch s b (record .swpb .loadStore 0x4#4))
    ∧ exec (.strex f) s = .next (afterFetch s b (record .strex .store 0x8#4))
    ∧ exec (.ldrex f) s = .next (afterFetch s b (record .ldrex .load 0x9#4))
    ∧ exec (.strexd f) s = .next (afterFetch s b (record .strexd .store 0xA#4))
    ∧ exec (.ldrexd f) s = .next (afterFetch s b (record .ldrexd .load 0xB#4))
    ∧ exec (.strexb f) s = .next (afterFetch s b (record .strexb .store 0xC#4))
    ∧ exec (.ldrexb f) s = .next (afterFetch s b (record .ldrexb .load 0xD#4))
    ∧ exec (.strexh f) s = .next (afterFetch s b (record .strexh .store 0xE#4))
    ∧ exec (.ldrexh f) s = .next (afterFetch s b (record .ldrexh .load 0xF#4))

/-- Block load/store: the raw bits `P`, `U`, `W`, `S` and the register list (R104, R259 to R272). -/
def Obligations.BlockTransferWordsComplete : Prop :=
  ∀ (f : Blk) (s : State) (b : Block), s.block = some b →
    let record := fun (id : Identifier) (d : Direction) =>
      ({ id := id, category := .block, direction := d, format := some .blk, cond := f.cond
         fields := .block f.rn f.registerList f.p f.u f.w f.s } : Classification)
    exec (.stmUser f) s = .next (afterFetch s b (record .stmUser .store))
    ∧ exec (.ldmExret f) s = .next (afterFetch s b (record .ldmExret .load))
    ∧ exec (.ldmUser f) s = .next (afterFetch s b (record .ldmUser .load))
    ∧ exec (.popMult f) s = .next (afterFetch s b (record .popMult .load))
    ∧ exec (.pushMult f) s = .next (afterFetch s b (record .pushMult .store))
    ∧ exec (.stmda f) s = .next (afterFetch s b (record .stmda .store))
    ∧ exec (.ldmda f) s = .next (afterFetch s b (record .ldmda .load))
    ∧ exec (.stmia f) s = .next (afterFetch s b (record .stmia .store))
    ∧ exec (.ldmia f) s = .next (afterFetch s b (record .ldmia .load))
    ∧ exec (.stmdb f) s = .next (afterFetch s b (record .stmdb .store))
    ∧ exec (.ldmdb f) s = .next (afterFetch s b (record .ldmdb .load))
    ∧ exec (.stmib f) s = .next (afterFetch s b (record .stmib .store))
    ∧ exec (.ldmib f) s = .next (afterFetch s b (record .ldmib .load))

/-- Coprocessor load/store: `imm8` raw (R273 to R276). -/
def Obligations.CoprocessorLoadStoreWordsComplete : Prop :=
  ∀ (f : CpLs) (s : State) (b : Block), s.block = some b →
    let record := fun (id : Identifier) (d : Direction) =>
      ({ id := id, category := .coproc, direction := d, format := some .cpLs, cond := f.cond
         fields := .coprocLs f.coproc f.rn f.crd { add := f.u, index := f.p, wback := !f.p || f.w } f.d
           f.imm8 } : Classification)
    exec (.cpStr f) s = .next (afterFetch s b (record .cpStr .store))
    ∧ exec (.cpLdLit f) s = .next (afterFetch s b (record .cpLdLit .load))
    ∧ exec (.cpLdImm f) s = .next (afterFetch s b (record .cpLdImm .load))

/-- Coprocessor register transfer with no cache-control operand set: no memory operation, no cache-control action, no
guest register written (R273, R277, R278). An MCR with the operand set of DCISW or ICIALLU is the row of that name. -/
def Obligations.RegisterTransferWordsComplete : Prop :=
  ∀ (f : CpRt) (s : State) (b : Block), s.block = some b →
    let record := fun (id : Identifier) =>
      ({ id := id, category := .coproc, direction := .noDirection, format := some .cpRt, cond := f.cond
         fields := .coprocRt f.coproc f.opc1 f.crn f.rt f.opc2 f.crm .noOp } : Classification)
    (WellFormed (.cpMcr f) = true → exec (.cpMcr f) s = .next (afterFetch s b (record .cpMcr)))
    ∧ exec (.cpMrc f) s = .next (afterFetch s b (record .cpMrc))

/-- Words that are not memory operations are counted and fetched like any other (R101, R250, R302). -/
def Obligations.NotMemoryWordsComplete : Prop :=
  ∀ (f : NotMem) (s : State) (b : Block), s.block = some b →
    let record : Classification :=
      { id := .notMem, category := .noCategory, direction := .noDirection, format := none, cond := f.cond
        fields := .noFields }
    exec (.notMemMedia f) s = .next (afterFetch s b record)
    ∧ exec (.notMemMultiply f) s = .next (afterFetch s b record)
    ∧ exec (.notMemDataProc f) s = .next (afterFetch s b record)
    ∧ exec (.notMemBranch f) s = .next (afterFetch s b record)
    ∧ exec (.notMemFpCoproc f) s = .next (afterFetch s b record)
    ∧ exec (.notMemCoprocHole f) s = .next (afterFetch s b record)
    ∧ exec (.notMemOther f) s = .next (afterFetch s b record)

/-- DCISW, after the fetch: the entry at row `v[13:4]`, way `v[31:30]` of the D-cache, `v` the value of `gpr[Rt]`, loses
its valid bit and keeps its tag, if cache control is enabled, the D-cache is live and the indices are in range; every
other entry and everything else is as the fetch left it (R281, R303, R307). -/
def Obligations.DciswInvalidatesTheNamedEntry : Prop :=
  ∀ (f : CacheCtl) (s : State) (b : Block), s.block = some b → Memory.wf .unlisted b.dcache.entries = true →
    let record : Classification :=
      { id := .cpMcr, category := .coproc, direction := .noDirection, format := some .cpRt, cond := f.cond
        fields := .coprocRt 0xE#4 0#3 7#4 f.rt 2#3 6#4 .dcisw }
    let done := fetchEffect { b with cur := record } s.insnVaddr
    let v := (s.gpr.get ⟨f.rt.toNat, f.rt.isLt⟩).toNat
    let row := v / 2 ^ 4 % 2 ^ 10
    let way := v / 2 ^ 30
    (¬(b.armEnable = true ∧ b.dcache.live = true ∧ row < b.dcache.rows ∧ way < b.dcache.assoc) →
      exec (.dcisw f) s = .next { s with block := some done.1, outputs := s.outputs ++ done.2 })
    ∧ (b.armEnable = true → b.dcache.live = true → row < b.dcache.rows → way < b.dcache.assoc →
      ∃ d : Cache,
        exec (.dcisw f) s = .next { s with block := some { done.1 with dcache := d }, outputs := s.outputs ++ done.2 }
        ∧ d = { b.dcache with entries := d.entries }
        ∧ ∀ r w, w < d.assoc → d.entry r w =
            if r = row ∧ w = way then { tag := (b.dcache.entry row way).tag, valid := false } else b.dcache.entry r w)

/-- ICIALLU, after the fetch, which loads and counts its own line: no entry of a live I-cache is valid any more, tags,
counters and replacement state stay, `gpr` is not read, and the next fetch misses, even in the same line; nothing happens
if cache control is disabled or the I-cache is torn down (R282, R304, R307, R387). -/
def Obligations.IcialluInvalidatesTheInstructionCache : Prop :=
  ∀ (f : CacheCtl) (s : State) (b : Block), s.block = some b → b.icache.Sound →
    let record : Classification :=
      { id := .cpMcr, category := .coproc, direction := .noDirection, format := some .cpRt, cond := f.cond
        fields := .coprocRt 0xE#4 0#3 7#4 f.rt 0#3 5#4 .iciallu }
    let done := fetchEffect { b with cur := record } s.insnVaddr
    (¬(b.armEnable = true ∧ b.icache.live = true) →
      exec (.iciallu f) s = .next { s with block := some done.1, outputs := s.outputs ++ done.2 })
    ∧ (b.armEnable = true → b.icache.live = true →
      ∃ k : Cache,
        exec (.iciallu f) s = .next { s with block := some { done.1 with icache := k }, outputs := s.outputs ++ done.2 }
        ∧ k = { done.1.icache with entries := k.entries }
        ∧ (∀ r w, k.entry r w = { tag := (done.1.icache.entry r w).tag, valid := false })
        ∧ ∀ a, (k.load a).1 = .miss)

/-! ### Engine commands (R130 to R145), each on one instance alone (R171) -/

/-- `init`: on a good configuration a fresh instance with no valid entry, else ConfigError (R130, R351). The model's choices
in it, not the rules': the tags of the entries, none of them valid (log entry 6); that the seed is `BlockInit`'s (log entry
10); that the old instance stays on an error (log entry 11); that a good `init` has no output (log entry 13). -/
def Obligations.InitCommandBuildsAFreshCache : Prop :=
  ∀ (c : CacheId) (cfg : CacheConfig) (s : State) (b : Block), s.block = some b →
    let fresh : Cache :=
      { size := cfg.size, assoc := cfg.assoc, blockSize := cfg.block, rows := cfg.size / (cfg.assoc * cfg.block)
        alloc := cfg.alloc
        blockOffsetBits := cfg.block.log2, rowBits := (cfg.size / (cfg.assoc * cfg.block)).log2, entries := []
        repl := if cfg.repl = .roundRobin then .roundRobin [] else .random (seedOf b.seeds c)
        counters := { loadHits := 0, loadMisses := 0, storeHits := 0, storeMisses := 0, compulsoryMisses := 0
                      evictions := 0 }
        live := true }
    (GoodConfig cfg → exec (.init c cfg) s = .next { s with block := some (b.withCache c fresh) })
    ∧ (¬GoodConfig cfg → exec (.init c cfg) s = .next { s with outputs := s.outputs ++ [.configError] })

/-- `load` (R132 to R137): MISS and nothing else on a torn-down instance; on a hit `load_hits` alone changes; on a miss
`load_misses` is counted and the line is filled. -/
def Obligations.LoadCommandEffect : Prop :=
  ∀ (c : CacheId) (addr : Word) (s : State) (b : Block), s.block = some b → (b.cache c).Sound →
    let k := b.cache c
    let n := k.counters
    let row := addr.toNat / 2 ^ k.blockOffsetBits % k.rows
    let tag := addr >>> (k.blockOffsetBits + k.rowBits)
    let resident := ∃ w < k.assoc, k.entry row w = { tag := tag, valid := true }
    (k.live = false → exec (.load c addr) s = .next { s with outputs := s.outputs ++ [.access .miss] })
    ∧ (k.live = true → resident →
      exec (.load c addr) s = .next { s with
        block := some (b.withCache c { k with counters := { n with loadHits := n.loadHits + 1 } })
        outputs := s.outputs ++ [.access .hit] })
    ∧ (k.live = true → ¬resident →
      ∃ k' : Cache,
        exec (.load c addr) s = .next { s with
          block := some (b.withCache c k'), outputs := s.outputs ++ [.access .miss] }
        ∧ k.Filled { n with loadMisses := n.loadMisses + 1 } row tag k')

/-- `store` (R138): as `load`, with the store counters; a miss fills the line only under WRITE_ALLOCATE, "otherwise the
cache is not mutated" but for `store_misses`. -/
def Obligations.StoreCommandEffect : Prop :=
  ∀ (c : CacheId) (addr : Word) (s : State) (b : Block), s.block = some b → (b.cache c).Sound →
    let k := b.cache c
    let n := k.counters
    let row := addr.toNat / 2 ^ k.blockOffsetBits % k.rows
    let tag := addr >>> (k.blockOffsetBits + k.rowBits)
    let resident := ∃ w < k.assoc, k.entry row w = { tag := tag, valid := true }
    (k.live = false → exec (.store c addr) s = .next { s with outputs := s.outputs ++ [.access .miss] })
    ∧ (k.live = true → resident →
      exec (.store c addr) s = .next { s with
        block := some (b.withCache c { k with counters := { n with storeHits := n.storeHits + 1 } })
        outputs := s.outputs ++ [.access .hit] })
    ∧ (k.live = true → ¬resident → k.alloc = .noWriteAllocate →
      exec (.store c addr) s = .next { s with
        block := some (b.withCache c { k with counters := { n with storeMisses := n.storeMisses + 1 } })
        outputs := s.outputs ++ [.access .miss] })
    ∧ (k.live = true → ¬resident → k.alloc = .writeAllocate →
      ∃ k' : Cache,
        exec (.store c addr) s = .next { s with
          block := some (b.withCache c k'), outputs := s.outputs ++ [.access .miss] }
        ∧ k.Filled { n with storeMisses := n.storeMisses + 1 } row tag k')

/-- `invalidate_block` (R139): one valid bit, its tag left in place, every other entry as it was; no effect on a torn-down
instance or out of range. -/
def Obligations.InvalidateBlockCommandEffect : Prop :=
  ∀ (c : CacheId) (row way : Nat) (s : State) (b : Block), s.block = some b →
    Memory.wf .unlisted (b.cache c).entries = true →
    let k := b.cache c
    (¬(k.live = true ∧ row < k.rows ∧ way < k.assoc) → exec (.invalidateBlock c row way) s = .next s)
    ∧ (k.live = true → row < k.rows → way < k.assoc →
      ∃ k' : Cache,
        exec (.invalidateBlock c row way) s = .next { s with block := some (b.withCache c k') }
        ∧ k' = { k with entries := k'.entries }
        ∧ ∀ r w, w < k.assoc → k'.entry r w =
            if r = row ∧ w = way then { tag := (k.entry row way).tag, valid := false } else k.entry r w)

/-- `invalidate_all` (R140): every valid bit of a live instance, counters and replacement state preserved; a second call
changes nothing more; no effect on a torn-down instance. -/
def Obligations.InvalidateAllCommandEffect : Prop :=
  ∀ (c : CacheId) (s : State) (b : Block), s.block = some b → Memory.wf .unlisted (b.cache c).entries = true →
    let k := b.cache c
    (k.live = false → exec (.invalidateAll c) s = .next s)
    ∧ (k.live = true →
      ∃ (t : State) (k' : Cache),
        exec (.invalidateAll c) s = .next t ∧ t = { s with block := some (b.withCache c k') }
        ∧ k' = { k with entries := k'.entries }
        ∧ (∀ r w, k'.entry r w = { tag := (k.entry r w).tag, valid := false })
        ∧ exec (.invalidateAll c) t = .next t)

/-- `get_addr` (R141): `(tag << tag_shift) | (row << row_shift)` of a valid entry, 0 for a torn-down instance, indices out
of range or an entry that is not valid; it writes nothing. That the shifts and the join are those of 32-bit words is the
model's reading (log entry 22). -/
def Obligations.GetAddrCommandResult : Prop :=
  ∀ (c : CacheId) (row way : Nat) (s : State) (b : Block), s.block = some b →
    let k := b.cache c
    let valid := k.live = true ∧ row < k.rows ∧ way < k.assoc ∧ (k.entry row way).valid = true
    (valid → exec (.getAddr c row way) s = .next { s with
      outputs := s.outputs ++ [.address ((k.entry row way).tag <<< (k.blockOffsetBits + k.rowBits)
        ||| BitVec.ofNat 32 row <<< k.blockOffsetBits)] })
    ∧ (¬valid → exec (.getAddr c row way) s = .next { s with outputs := s.outputs ++ [.address 0#32] })

/-- `is_block_valid` (R142): `c.live and row < c.rows and way < c.assoc and c.valid[row][way]`; it writes nothing. -/
def Obligations.IsBlockValidCommandResult : Prop :=
  ∀ (c : CacheId) (row way : Nat) (s : State) (b : Block), s.block = some b →
    let k := b.cache c
    exec (.isBlockValid c row way) s = .next { s with
      outputs := s.outputs ++
        [.flag (k.live && decide (row < k.rows) && decide (way < k.assoc) && (k.entry row way).valid)] }

/-- `validate_injection` (R143): INVALID_CACHE for a torn-down instance, tested first, else OK in range, else RANGE_ERROR;
it writes nothing. -/
def Obligations.ValidateInjectionCommandResult : Prop :=
  ∀ (c : CacheId) (row way word : Nat) (s : State) (b : Block), s.block = some b →
    let k := b.cache c
    exec (.validateInjection c row way word) s = .next { s with
      outputs := s.outputs ++ [.validation
        (if k.live = false then .invalidCache
         else if row < k.rows ∧ way < k.assoc ∧ word < k.blockSize / 4 then .ok
         else .rangeError)] }

/-- `stats` (R144): the six counters, of a torn-down instance too; it writes nothing. -/
def Obligations.StatsCommandResult : Prop :=
  ∀ (c : CacheId) (s : State) (b : Block), s.block = some b →
    exec (.stats c) s = .next { s with outputs := s.outputs ++ [.counters (b.cache c).counters] }

/-- `teardown` of one instance, and what every other operation does after it (R145): MISS, 0 or false, nothing counted,
nothing changed. -/
def Obligations.TeardownCommandSilencesTheCache : Prop :=
  ∀ (c : CacheId) (s : State) (b : Block), s.block = some b →
    let t : State := { s with block := some (b.withCache c { b.cache c with live := false }) }
    exec (.teardown c) s = .next t
    ∧ (∀ addr, exec (.load c addr) t = .next { t with outputs := t.outputs ++ [.access .miss] })
    ∧ (∀ addr, exec (.store c addr) t = .next { t with outputs := t.outputs ++ [.access .miss] })
    ∧ (∀ row way, exec (.invalidateBlock c row way) t = .next t)
    ∧ exec (.invalidateAll c) t = .next t
    ∧ (∀ row way, exec (.getAddr c row way) t = .next { t with outputs := t.outputs ++ [.address 0#32] })
    ∧ (∀ row way, exec (.isBlockValid c row way) t = .next { t with outputs := t.outputs ++ [.flag false] })
    ∧ (∀ row way word, exec (.validateInjection c row way word) t
        = .next { t with outputs := t.outputs ++ [.validation .invalidCache] })
    ∧ exec (.teardown c) t = .next t

/-! ### Laws of one cache -/

/-- The address decomposition (R131): tag, row and offset are the address cut at `row_shift` and `tag_shift`; two addresses
have one row and tag exactly if they lie in one line; a tag shift of 32 or more makes every tag 0. -/
def Obligations.AddressIsTagRowOffset : Prop :=
  ∀ (k : Cache) (a : Word), k.Sound →
    k.rowOf a < k.rows
    ∧ k.offsetOf a < k.blockSize
    ∧ a.toNat = (k.tagOf a).toNat * 2 ^ (k.blockOffsetBits + k.rowBits) + k.rowOf a * 2 ^ k.blockOffsetBits
        + k.offsetOf a
    ∧ (32 ≤ k.blockOffsetBits + k.rowBits → k.tagOf a = 0#32)
    ∧ ∀ a' : Word, (k.rowOf a = k.rowOf a' ∧ k.tagOf a = k.tagOf a') ↔ a.toNat / k.blockSize = a'.toNat / k.blockSize

/-- The address that `get_addr` gives for a valid entry maps back to that entry's row and tag, and its offset bits are
zero (R141). The row must have an address at all: in a cache larger than the address space the rows above it have none. -/
def Obligations.ProbedAddressMapsBack : Prop :=
  ∀ (k : Cache) (row way : Nat), k.Sound → k.isBlockValid row way = true → row * 2 ^ k.blockOffsetBits < 2 ^ 32 →
    k.rowOf (k.getAddr row way) = row
    ∧ k.tagOf (k.getAddr row way) = (k.entry row way).tag
    ∧ k.offsetOf (k.getAddr row way) = 0

/-- "A load immediately following any load to the same address is a HIT" (R137), and so is one to any address of the same
line; exactly one entry of the row holds the line (R26(c)). -/
def Obligations.LoadAfterLoadHits : Prop :=
  ∀ (c : CacheId) (a a' : Word) (s : State) (b : Block), s.block = some b → (b.cache c).Sound →
    (b.cache c).live = true → a.toNat / (b.cache c).blockSize = a'.toNat / (b.cache c).blockSize →
    ∃ (t t' : State) (b1 : Block),
      exec (.load c a) s = .next t ∧ t.block = some b1
      ∧ exec (.load c a') t = .next t' ∧ t'.outputs = t.outputs ++ [.access .hit]
      ∧ ∃ w < (b1.cache c).assoc, ∀ v < (b1.cache c).assoc,
          ((b1.cache c).entry ((b1.cache c).rowOf a) v = { tag := (b1.cache c).tagOf a, valid := true } ↔ v = w)

/-- "any sequence of `N` distinct-tag loads" no more than `assoc` of which fall in one row "produces exactly `N` misses and
`N` compulsory misses, `0` evictions" after `invalidate_all` (R140). -/
def Obligations.LoadsAfterInvalidateAllNeverEvict : Prop :=
  ∀ (k : Cache) (addrs : List Word), k.Sound → k.live = true →
    addrs.Pairwise (fun a a' => ¬(k.rowOf a = k.rowOf a' ∧ k.tagOf a = k.tagOf a')) →
    (∀ row, (addrs.filter fun a => k.rowOf a == row).length ≤ k.assoc) →
    let n := k.counters
    (addrs.foldl (fun c a => (c.load a).2) k.invalidateAll).counters =
      { n with loadMisses := n.loadMisses + addrs.length, compulsoryMisses := n.compulsoryMisses + addrs.length }

/-- ROUND_ROBIN is first-in-first-out (R147): from a row with no valid entry and cursor 0, after the fills of `tags` in
order the row holds the last `assoc` of them, the `j`-th in way `j mod assoc`, so each victim is the way filled longest
ago. -/
def Obligations.RoundRobinFillsAreFirstInFirstOut : Prop :=
  ∀ (k : Cache) (cursors : Memory Nat) (row : Nat) (tags : List Word), k.Sound → k.repl = .roundRobin cursors →
    row < k.rows → Memory.read 0 cursors row = 0 → (∀ w < k.assoc, (k.entry row w).valid = false) →
    let k' := tags.foldl (fun c tag => c.fill row tag) k
    ∀ j (h : j < tags.length), tags.length ≤ j + k.assoc →
      k'.entry row (j % k.assoc) = { tag := tags[j], valid := true }

/-- The low-bit law (R146): for `assoc` in 1, 2, 4, 8, 16 the `n`-th victim selection of a RANDOM cache, `n` from 1,
returns `(-1)^n * SEED0 mod assoc`, and leaves the seed after `n` selections. -/
def Obligations.RandomVictimsAlternate : Prop :=
  ∀ (k : Cache) (row n : Nat) (seed0 : Word), k.repl = .random (lcgSeed seed0 n) → k.assoc ∣ 16 →
    k.victimRepl row = .random (lcgSeed seed0 (n + 1))
    ∧ k.victimWay row =
        if (n + 1) % 2 = 0 then seed0.toNat % k.assoc else (k.assoc - seed0.toNat % k.assoc) % k.assoc

/-- A hit writes one counter, and replacement state moves only when a victim is selected, that is with an eviction (R133):
whatever the instruction, an instance that counts no eviction keeps its cursors or its seed. -/
def Obligations.HitsWriteOneCounter : Prop :=
  (∀ (k : Cache) (a : Word), k.live = true →
    (∃ w < k.assoc, k.entry (k.rowOf a) w = { tag := k.tagOf a, valid := true }) →
    k.load a = (.hit, { k with counters := { k.counters with loadHits := k.counters.loadHits + 1 } })
    ∧ k.store a = (.hit, { k with counters := { k.counters with storeHits := k.counters.storeHits + 1 } }))
  ∧ ∀ (i : Instr) (s t : State) (b b' : Block) (c : CacheId),
    s.block = some b → b.Sound → exec i s = .next t → t.block = some b' → createsCache i = false →
    (b'.cache c).counters.evictions = (b.cache c).counters.evictions → (b'.cache c).repl = (b.cache c).repl

/-! ### Host events -/

/-- `BlockInit` builds a block that owes nothing to the old one (R50, R380, R381, R383), or, if any of the three
configurations is bad, reports ConfigError and no block exists (R178, R351). The model's choices in it, not the rules':
the tags of the entries, none of them valid (log entry 6); the kept parameters `seeds` (log entry 10); that a failed
BlockInit reports once, and what outside the block it leaves (log entries 12, 26); that a good one has no output (log
entry 13); the `cond` of the record in `cur` (log entry 14). -/
def Obligations.BlockInitBuildsTheBlock : Prop :=
  ∀ (cfg : BlockConfig) (s : State),
    let good := GoodConfig cfg.icache ∧ GoodConfig cfg.dcache ∧ GoodConfig cfg.l2
    let zero : Counters :=
      { loadHits := 0, loadMisses := 0, storeHits := 0, storeMisses := 0, compulsoryMisses := 0, evictions := 0 }
    let fresh := fun (c : CacheConfig) (seed0 : Word) =>
      ({ size := c.size, assoc := c.assoc, blockSize := c.block, rows := c.size / (c.assoc * c.block), alloc := c.alloc
         blockOffsetBits := c.block.log2, rowBits := (c.size / (c.assoc * c.block)).log2, entries := []
         repl := if c.repl = .roundRobin then .roundRobin [] else .random seed0, counters := zero
         live := true } : Cache)
    let made : Block :=
      { icache := fresh cfg.icache cfg.seeds.icache, dcache := fresh cfg.dcache cfg.seeds.dcache
        l2 := fresh cfg.l2 cfg.seeds.l2, seeds := cfg.seeds
        insnCount := 0, loadCount := 0, storeCount := 0
        textStart := cfg.textStart, textEnd := cfg.textEnd, armEnable := cfg.armEnable
        cur := { id := .notMem, category := .noCategory, direction := .noDirection, format := none
                 cond := Classification.resetCond, fields := .noFields }
        injState := .armed, plan := none }
    (good → exec (.blockInit cfg) s = .next { s with block := some made })
    ∧ (¬good → exec (.blockInit cfg) s = .next { s with block := none, outputs := s.outputs ++ [.configError] })

/-- InsnExec of bytes that are not four (R91, R301, R352): SizeMismatch with the address, `cur` NOT_MEM, then the fetch
part; no cache-control action. The model's choices in it, not the rules': the `cond` of the record, which R101 and R105
keep and no word gives, is a free value, and the count of free values advances (log entry 14); the port lines keep the
event's address and register values (log entry 7); the outputs are a list (log entry 8). -/
def Obligations.WrongSizeInstructionIsReported : Prop :=
  ∀ (v : Word) (bytes : List Byte) (g : Vector Word 16) (s : State) (b : Block), s.block = some b →
    bytes.length ≠ 4 →
    let record : Classification :=
      { id := .notMem, category := .noCategory, direction := .noDirection, format := none
        cond := Config.freeCond s.freeCount, fields := .noFields }
    let done := fetchEffect { b with cur := record } v
    exec (.insnExec v bytes g) s = .next { s with
      insnVaddr := v, gpr := g, freeCount := s.freeCount + 1
      block := some done.1, outputs := s.outputs ++ .sizeMismatch v :: done.2 }

/-- `MemAccess` (R172 to R175, R305): ignored if the current instruction is no memory operation or the address is in
`.text`; else one D-cache operation by `dir`, counted, and on a miss the same operation on L2. -/
def Obligations.MemAccessEffect : Prop :=
  ∀ (v : Word) (dir : AccessDir) (s : State) (b : Block), s.block = some b →
    (b.cur.direction = .noDirection → exec (.memAccess v dir) s = .next s)
    ∧ (InText b v → exec (.memAccess v dir) s = .next s)
    ∧ (b.cur.direction ≠ .noDirection → ¬InText b v →
      exec (.memAccess v .write) s = .next { s with block := some { b with
        storeCount := b.storeCount + 1
        dcache := (b.dcache.store v).2
        l2 := if (b.dcache.store v).1 = .miss then (b.l2.store v).2 else b.l2 } }
      ∧ exec (.memAccess v .read) s = .next { s with block := some { b with
        loadCount := b.loadCount + 1
        dcache := (b.dcache.load v).2
        l2 := if (b.dcache.load v).1 = .miss then (b.l2.load v).2 else b.l2 } })

/-- `LoadPlan` (R331, R353): ignored once FIRED; while ARMED a plan in range of a live instance is stored, replacing the
old one; any other is reported and changes nothing. -/
def Obligations.LoadPlanEffect : Prop :=
  ∀ (n : Nat) (name : CacheName) (row way word : Nat) (s : State) (b : Block), s.block = some b →
    let target : CacheId := match name with
      | .icache => .icache
      | .dcache => .dcache
      | .l2cache => .l2
    let k := b.cache target
    let inRange := row < k.rows ∧ way < k.assoc ∧ word < k.blockSize / 4
    (b.injState = .fired → exec (.loadPlan n name row way word) s = .next s)
    ∧ (b.injState = .armed → k.live = true → inRange →
      exec (.loadPlan n name row way word) s = .next { s with block := some { b with
        plan := some { sleepCycles := n, target := target, row := row, way := way, wordInBlock := word } } })
    ∧ (b.injState = .armed → k.live = true → ¬inRange →
      exec (.loadPlan n name row way word) s
        = .next { s with outputs := s.outputs ++ [.invalidInjection .rangeError] })
    ∧ (b.injState = .armed → k.live = false →
      exec (.loadPlan n name row way word) s
        = .next { s with outputs := s.outputs ++ [.invalidInjection .invalidCache] })

/-- `Teardown` clears the three `live` flags and nothing else, and "`Teardown` twice equals once" (R384). -/
def Obligations.TeardownEventEffect : Prop :=
  ∀ (s : State) (b : Block), s.block = some b →
    let t : State := { s with block := some { b with
      icache := { b.icache with live := false }
      dcache := { b.dcache with live := false }
      l2 := { b.l2 with live := false } } }
    exec .blockTeardown s = .next t ∧ exec .blockTeardown t = .next t

/-- After `Teardown` the driver still follows its rules with the caches dead (R312, R384): a word row counts in `.text`,
memory events count, no cache changes (decision D38, log entry 20). -/
def Obligations.DriverCountsOnAfterTeardown : Prop :=
  ∀ (s : State) (b : Block), s.block = some b →
    b.icache.live = false → b.dcache.live = false → b.l2.live = false →
    (∀ i, isWordRow i = true →
      ∃ (t : State) (b' : Block), exec i s = .next t ∧ t.block = some b'
        ∧ b'.insnCount = (if InText b s.insnVaddr then b.insnCount + 1 else b.insnCount)
        ∧ b'.icache = b.icache ∧ b'.dcache = b.dcache ∧ b'.l2 = b.l2)
    ∧ (∀ v, b.cur.direction ≠ .noDirection → ¬InText b v →
      exec (.memAccess v .write) s = .next { s with block := some { b with storeCount := b.storeCount + 1 } }
      ∧ exec (.memAccess v .read) s = .next { s with block := some { b with loadCount := b.loadCount + 1 } })

/-- The injector's state machine (R330, R333, R335, R336), over every instruction but `BlockInit`: FIRED is never left,
then the plan stays and no report is made; ARMED becomes FIRED exactly when the instruction count moves to a due plan's,
with exactly one report, of that count. -/
def Obligations.InjectorFiresOnce : Prop :=
  ∀ (i : Instr) (s t : State) (b b' : Block), s.block = some b → exec i s = .next t → t.block = some b' →
    (∀ cfg, i ≠ .blockInit cfg) →
    ∃ new, t.outputs = s.outputs ++ new
      ∧ (b.injState = .fired → b'.injState = .fired ∧ b'.plan = b.plan ∧ NoReport new)
      ∧ (b.injState = .armed →
          let due := b'.insnCount = b.insnCount + 1 ∧ ∃ p, b.plan = some p ∧ p.sleepCycles ≤ b'.insnCount
          (due → b'.injState = .fired ∧ b'.plan = b.plan
            ∧ ∃ l a ok, new = l ++ [.injectionReport b'.insnCount a ok] ∧ NoReport l)
          ∧ (¬due → b'.injState = .armed ∧ NoReport new))

/-- The two memory events of a swap in their order, store then load (R306), on a line the D-cache does not hold: under
NO_WRITE_ALLOCATE the store misses without filling and the load then misses and fills. -/
def Obligations.SwapOnAColdLineMissesTwice : Prop :=
  ∀ (a : Word) (s : State) (b : Block), s.block = some b → b.dcache.Sound → b.dcache.live = true →
    b.dcache.alloc = .noWriteAllocate → b.cur.direction = .loadStore → ¬InText b a →
    (∀ w < b.dcache.assoc,
      b.dcache.entry (b.dcache.rowOf a) w ≠ { tag := b.dcache.tagOf a, valid := true }) →
    ∃ (t1 t2 : State) (b2 : Block),
      exec (.memAccess a .write) s = .next t1 ∧ exec (.memAccess a .read) t1 = .next t2 ∧ t2.block = some b2
      ∧ b2.storeCount = b.storeCount + 1 ∧ b2.loadCount = b.loadCount + 1
      ∧ b2.dcache.counters.storeMisses = b.dcache.counters.storeMisses + 1
      ∧ b2.dcache.counters.loadMisses = b.dcache.counters.loadMisses + 1
      ∧ b2.dcache.counters.storeHits = b.dcache.counters.storeHits
      ∧ b2.dcache.counters.loadHits = b.dcache.counters.loadHits
      ∧ ∃ w < b.dcache.assoc, b2.dcache.entry (b.dcache.rowOf a) w = { tag := b.dcache.tagOf a, valid := true }

/-! ### Reset and the invariants of every step -/

/-- What reset leaves (R50, R170, R381): the three default geometries, no valid entry, cursors 0, counters 0, live, `cur`
NOT_MEM, the injector ARMED with no plan. The model's choices: the seeds, the `.text` range and `arm_enable`, which the spec
leaves open (log entry 5), and the queue and the list of outputs, both empty (log entries 1, 8). -/
def Obligations.ResetValues : Prop :=
  ∃ b, State.reset.block = some b ∧ State.reset.inbox = [] ∧ State.reset.outputs = []
    ∧ Block.init Config.standard = some b
    ∧ (∀ c row way, ((b.cache c).entry row way).valid = false)
    ∧ (∀ c, (b.cache c).counters
        = { loadHits := 0, loadMisses := 0, storeHits := 0, storeMisses := 0, compulsoryMisses := 0, evictions := 0 })
    ∧ (∀ c, (b.cache c).live = true)
    ∧ b.l2.repl = .roundRobin []
    ∧ b.insnCount = 0 ∧ b.loadCount = 0 ∧ b.storeCount = 0
    ∧ b.cur.id = .notMem ∧ b.injState = .armed ∧ b.plan = none
    ∧ (b.icache.size, b.icache.assoc, b.icache.blockSize, b.icache.rows) = (32768, 4, 32, 256)
    ∧ (b.dcache.size, b.dcache.assoc, b.dcache.blockSize, b.dcache.rows) = (32768, 4, 32, 256)
    ∧ (b.l2.size, b.l2.assoc, b.l2.blockSize, b.l2.rows) = (524288, 8, 32, 2048)

/-- The state after reset meets the four invariants below. Reset is the model's choice of one `BlockInit` (log entry 5), and
the kept seeds, which the seed law speaks of, are the model's field (log entry 10). -/
def Obligations.ResetMeetsTheInvariants : Prop :=
  State.reset.Sound ∧ State.reset.CounterLaws ∧ State.reset.SeedLaw ∧ State.reset.PlanInRange

/-- Every step keeps the structural invariants of the three caches (R22, R26, R27): exact power-of-two geometry, canonical
entry and cursor arrays inside it, no tag held twice in a row, narrow tags, cursors below `assoc`, every allocating miss
counted as one fill; and the record in `cur` of the category and direction of its identifier (R105, R106). The
canonical form of the arrays is the model's (log entry 15). -/
def Obligations.StepKeepsSoundness : Prop :=
  ∀ s t : State, s.Sound → step s = .next t → t.Sound

/-- The counter laws of the driver and of the hierarchy (R179, R312), kept by every step that processes an event: "while
all caches are live and only driver events act on them". -/
def Obligations.DriverEventsKeepTheCounterLaws : Prop :=
  ∀ s t : State, s.CounterLaws → s.DrivenByEvents → step s = .next t → t.CounterLaws

/-- Every step keeps the seed law: the seed of a RANDOM cache is its `SEED0` times 48271 to the number of evictions it has
counted, modulo 2^32 (R134, R136); so the run is reproducible from the seeds (R390). That the engine command `init` starts
from the `SEED0` that `BlockInit` gave is the model's choice, not the rules' (log entry 10). -/
def Obligations.StepKeepsTheSeedLaw : Prop :=
  ∀ s t : State, s.Sound → s.SeedLaw → step s = .next t → t.SeedLaw

/-- "a plan valid at receipt is still in range at firing" (R331): every instruction but an engine `init`, which builds
another geometry, keeps the stored plan in range of the cache it names. -/
def Obligations.StoredPlanStaysInRange : Prop :=
  ∀ (i : Instr) (s t : State), (∀ c cfg, i ≠ .init c cfg) → s.PlanInRange → exec i s = .next t → t.PlanInRange

/-- Counters are never decremented and never cleared but by `init` and `BlockInit` (R24, R30, R361). -/
def Obligations.CountersNeverDecrease : Prop :=
  ∀ (i : Instr) (s t : State) (b b' : Block), s.block = some b → exec i s = .next t → t.block = some b' →
    createsCache i = false →
    b.insnCount ≤ b'.insnCount ∧ b.loadCount ≤ b'.loadCount ∧ b.storeCount ≤ b'.storeCount
    ∧ ∀ c, (b.cache c).counters.loadHits ≤ (b'.cache c).counters.loadHits
      ∧ (b.cache c).counters.loadMisses ≤ (b'.cache c).counters.loadMisses
      ∧ (b.cache c).counters.storeHits ≤ (b'.cache c).counters.storeHits
      ∧ (b.cache c).counters.storeMisses ≤ (b'.cache c).counters.storeMisses
      ∧ (b.cache c).counters.compulsoryMisses ≤ (b'.cache c).counters.compulsoryMisses
      ∧ (b.cache c).counters.evictions ≤ (b'.cache c).counters.evictions

/-- Configuration is "written once by `init` and never after" (R20, R21, R31); a cache that is not live is never live again
but by `init` or `BlockInit` (R25). The kept parameters `seeds` are the model's field (log entry 10). -/
def Obligations.ConfigurationIsImmutable : Prop :=
  ∀ (i : Instr) (s t : State) (b b' : Block), s.block = some b → exec i s = .next t → t.block = some b' →
    createsCache i = false →
    b'.textStart = b.textStart ∧ b'.textEnd = b.textEnd ∧ b'.armEnable = b.armEnable ∧ b'.seeds = b.seeds
    ∧ ∀ c, (b'.cache c).size = (b.cache c).size ∧ (b'.cache c).assoc = (b.cache c).assoc
      ∧ (b'.cache c).blockSize = (b.cache c).blockSize ∧ (b'.cache c).rows = (b.cache c).rows
      ∧ (b'.cache c).alloc = (b.cache c).alloc ∧ (b'.cache c).blockOffsetBits = (b.cache c).blockOffsetBits
      ∧ (b'.cache c).rowBits = (b.cache c).rowBits
      ∧ ((∃ m, (b'.cache c).repl = .roundRobin m) ↔ ∃ m, (b.cache c).repl = .roundRobin m)
      ∧ ((b.cache c).live = false → (b'.cache c).live = false)

/-- Only invalidation clears a valid bit (R42, R176, R311): an entry that loses its valid bit was named by an engine
invalidation of its own instance, or it is in the D-cache and the instruction is a DCISW, or in the I-cache and the
instruction is an ICIALLU, or an `init` or `BlockInit` built a new instance. No driver event invalidates in L2. -/
def Obligations.OnlyInvalidationClearsValidBits : Prop :=
  ∀ (i : Instr) (s t : State) (b b' : Block) (c : CacheId) (row way : Nat),
    s.block = some b → b.Sound → exec i s = .next t → t.block = some b' → createsCache i = false →
    row < (b.cache c).rows → way < (b.cache c).assoc →
    ((b.cache c).entry row way).valid = true → ((b'.cache c).entry row way).valid = false →
    i = .invalidateBlock c row way ∨ i = .invalidateAll c
    ∨ ((isWordRow i = true ∨ ∃ v bytes g, i = .insnExec v bytes g)
        ∧ ((c = .dcache ∧ b'.cur.cacheOp = .dcisw) ∨ (c = .icache ∧ b'.cur.cacheOp = .iciallu)))

/-- The guest's registers are read by DCISW alone (R40): for every other instruction of the tables, other register values
change nothing else; and DCISW itself reads of `gpr[Rt]` only bits `[31:30]` and `[13:4]` (R303). The register values stand
on the model's port lines (log entry 7). -/
def Obligations.OnlyDciswReadsGuestRegisters : Prop :=
  ∀ (i : Instr) (s t : State) (g : Vector Word 16), (∀ v bytes g', i ≠ .insnExec v bytes g') →
    (∀ f, i = .dcisw f →
      let x := s.gpr.get ⟨f.rt.toNat, f.rt.isLt⟩
      let y := g.get ⟨f.rt.toNat, f.rt.isLt⟩
      x.extractLsb' 30 2 = y.extractLsb' 30 2 ∧ x.extractLsb' 4 10 = y.extractLsb' 4 10) →
    exec i s = .next t → exec i { s with gpr := g } = .next { t with gpr := g }

/-- The payload of DCISW (R303, R388): `(way << 30) | (set << 4)` names row `set`, way `way`, whatever stands in the bits
between and below; the architectural `set << 5` names row `(set << 1) mod 1024`. -/
def Obligations.DciswPayloadPlacement : Prop :=
  ∀ way set ignored low : Nat, way < 4 → set < 1024 → ignored < 2 ^ 16 → low < 16 →
    dciswWay (BitVec.ofNat 32 (way * 2 ^ 30 + ignored * 2 ^ 14 + set * 2 ^ 4 + low)) = way
    ∧ dciswSet (BitVec.ofNat 32 (way * 2 ^ 30 + ignored * 2 ^ 14 + set * 2 ^ 4 + low)) = set
    ∧ dciswSet (BitVec.ofNat 32 (way * 2 ^ 30 + set * 2 ^ 5)) = set * 2 % 1024

/-- The error kinds (R350 to R355): their codes, and the output that reports each; PostTeardown is reported by none, and
InvalidSlot is the report's validity being false. -/
def Obligations.ErrorKindsAndTheirReports : Prop :=
  [ErrorKind.configError, .sizeMismatch, .invalidInjection, .invalidSlot, .postTeardown].map ErrorKind.code
    = [1, 2, 3, 4, 5]
  ∧ (∀ o : Output, o.errorKind = some .configError ↔ o = .configError)
  ∧ (∀ o : Output, o.errorKind = some .sizeMismatch ↔ ∃ v, o = .sizeMismatch v)
  ∧ (∀ o : Output, o.errorKind = some .invalidInjection ↔ ∃ v, o = .invalidInjection v)
  ∧ (∀ o : Output, o.errorKind = some .invalidSlot ↔ ∃ n a, o = .injectionReport n a false)
  ∧ ∀ o : Output, o.errorKind ≠ some .postTeardown

end
end

