-- ==== Sys2Proof/Laws/Memory.lean ====
section
/-! SUPPORT. The sparse arrays: read after write, the canonical form is kept by every operation, equal readings of
canonical arrays are equal arrays. -/

namespace Sys2Proof.Machine

variable {α : Type} [DecidableEq α] {d : α}

omit [DecidableEq α] in
@[simp] theorem Memory.read_nil (a : Nat) : Memory.read d [] a = d := rfl

@[simp] theorem Memory.wf_nil : Memory.wf d ([] : Memory α) = true := rfl

theorem Memory.wf_cons (k : Nat) (v : α) (rest : Memory α) :
    Memory.wf d ((k, v) :: rest) = true ↔ v ≠ d ∧ (∀ e ∈ rest, k < e.1) ∧ Memory.wf d rest = true := by
  simp [Memory.wf, and_assoc]

omit [DecidableEq α] in
/-- An index below every listed one reads as unlisted. -/
theorem Memory.read_of_lt (m : Memory α) (a : Nat) (h : ∀ e ∈ m, a < e.1) : Memory.read d m a = d := by
  induction m with
  | nil => rfl
  | cons e rest ih =>
    obtain ⟨k, v⟩ := e
    have hk : a < k := h (k, v) (by simp)
    simp [Memory.read, Nat.ne_of_gt hk, ih fun e he => h e (by simp [he])]

omit [DecidableEq α] in
/-- A read that is not the unlisted value comes from a listed entry. -/
theorem Memory.mem_of_read (m : Memory α) (a : Nat) (h : Memory.read d m a ≠ d) : (a, Memory.read d m a) ∈ m := by
  induction m with
  | nil => simp at h
  | cons e rest ih =>
    obtain ⟨k, v⟩ := e
    by_cases hk : k = a
    · simp [Memory.read, hk]
    · simp only [Memory.read, hk, if_false] at h ⊢
      exact List.mem_cons_of_mem _ (ih h)

/-- In a canonical array a listed entry is what its index reads as. -/
theorem Memory.read_of_mem (m : Memory α) (hm : Memory.wf d m = true) (e : Nat × α) (he : e ∈ m) :
    Memory.read d m e.1 = e.2 := by
  induction m with
  | nil => simp at he
  | cons e' rest ih =>
    obtain ⟨k, v⟩ := e'
    obtain ⟨-, hlt, hrest⟩ := (Memory.wf_cons k v rest).1 hm
    rcases List.mem_cons.1 he with rfl | he'
    · simp [Memory.read]
    · have : k ≠ e.1 := Nat.ne_of_lt (hlt e he')
      simp [Memory.read, this, ih hrest he']

/-- Read after write at the same index. -/
theorem Memory.read_write_self (m : Memory α) (hm : Memory.wf d m = true) (a : Nat) (v : α) :
    Memory.read d (Memory.write d m a v) a = v := by
  induction m with
  | nil => by_cases hv : v = d <;> simp [Memory.write, Memory.read, hv]
  | cons e rest ih =>
    obtain ⟨k, x⟩ := e
    obtain ⟨-, hlt, hrest⟩ := (Memory.wf_cons k x rest).1 hm
    simp only [Memory.write]
    split
    · rename_i hak
      split
      · rename_i hv
        rw [hv]
        exact Memory.read_of_lt _ _ fun e he => by
          rcases List.mem_cons.1 he with rfl | he
          · exact hak
          · exact hak.trans (hlt e he)
      · simp [Memory.read]
    · split
      · rename_i hak
        split
        · rename_i hv
          rw [hv]
          exact Memory.read_of_lt _ _ fun e he => hak ▸ hlt e he
        · simp [Memory.read]
      · rename_i hka hne
        have : k ≠ a := fun h => hne h.symm
        simp [Memory.read, this, ih hrest]

/-- A write leaves every other index as it was. -/
theorem Memory.read_write_ne (m : Memory α) (a b : Nat) (v : α) (hab : b ≠ a) :
    Memory.read d (Memory.write d m a v) b = Memory.read d m b := by
  induction m with
  | nil => by_cases hv : v = d <;> simp [Memory.write, Memory.read, hv, hab.symm]
  | cons e rest ih =>
    obtain ⟨k, x⟩ := e
    simp only [Memory.write]
    split
    · split <;> simp [Memory.read, hab.symm]
    · split
      · rename_i hak
        split <;> simp [Memory.read, ← hak, hab.symm]
      · simp [Memory.read, ih]

/-- Every entry after a write is an old one or the written one. -/
theorem Memory.mem_write (m : Memory α) (a : Nat) (v : α) (e : Nat × α) (he : e ∈ Memory.write d m a v) :
    e ∈ m ∨ (e = (a, v) ∧ v ≠ d) := by
  induction m with
  | nil =>
    by_cases hv : v = d
    · simp [Memory.write, hv] at he
    · simp [Memory.write, hv] at he; exact .inr ⟨he, hv⟩
  | cons e' rest ih =>
    obtain ⟨k, x⟩ := e'
    simp only [Memory.write] at he
    split at he
    · split at he
      · exact .inl he
      · rename_i hv
        rcases List.mem_cons.1 he with rfl | he
        · exact .inr ⟨rfl, hv⟩
        · exact .inl he
    · split at he
      · split at he
        · exact .inl (List.mem_cons_of_mem _ he)
        · rename_i hv
          rcases List.mem_cons.1 he with rfl | he
          · exact .inr ⟨rfl, hv⟩
          · exact .inl (List.mem_cons_of_mem _ he)
      · rcases List.mem_cons.1 he with rfl | he
        · exact .inl (by simp)
        · exact (ih he).imp (List.mem_cons_of_mem _) id

/-- A write keeps the canonical form. -/
theorem Memory.wf_write (m : Memory α) (hm : Memory.wf d m = true) (a : Nat) (v : α) :
    Memory.wf d (Memory.write d m a v) = true := by
  induction m with
  | nil => by_cases hv : v = d <;> simp [Memory.write, Memory.wf, hv]
  | cons e rest ih =>
    obtain ⟨k, x⟩ := e
    obtain ⟨hx, hlt, hrest⟩ := (Memory.wf_cons k x rest).1 hm
    simp only [Memory.write]
    split
    · rename_i hak
      split
      · exact hm
      · rename_i hv
        refine (Memory.wf_cons _ _ _).2 ⟨hv, fun e he => ?_, hm⟩
        rcases List.mem_cons.1 he with rfl | he
        · exact hak
        · exact hak.trans (hlt e he)
    · split
      · rename_i hak
        split
        · exact hrest
        · rename_i hv
          exact (Memory.wf_cons _ _ _).2 ⟨hv, fun e he => hak ▸ hlt e he, hrest⟩
      · rename_i hka hne
        refine (Memory.wf_cons _ _ _).2 ⟨hx, fun e he => ?_, ih hrest⟩
        rcases Memory.mem_write rest a v e he with he | ⟨rfl, -⟩
        · exact hlt e he
        · exact Nat.lt_of_le_of_ne (Nat.le_of_not_lt hka) fun h => hne h.symm

/-- Reading after a map that fixes the unlisted value. -/
theorem Memory.read_map (f : α → α) (hf : f d = d) (m : Memory α) (hm : Memory.wf d m = true) (a : Nat) :
    Memory.read d (Memory.map d f m) a = f (Memory.read d m a) := by
  induction m with
  | nil => simp [Memory.map, hf]
  | cons e rest ih =>
    obtain ⟨k, v⟩ := e
    obtain ⟨-, hlt, hrest⟩ := (Memory.wf_cons k v rest).1 hm
    have ih := ih hrest
    by_cases hk : k = a
    · subst hk
      have hd : Memory.read d rest k = d := Memory.read_of_lt rest k hlt
      by_cases hv : f v = d
      · simp [Memory.map, hv, ih, hd, hf, Memory.read]
      · simp [Memory.map, hv, Memory.read]
    · by_cases hv : f v = d
      · simp [Memory.map, hv, ih, Memory.read, hk]
      · simp [Memory.map, hv, ih, Memory.read, hk]

/-- Every entry after a map is the image of an old one. -/
theorem Memory.mem_map (f : α → α) (m : Memory α) (e : Nat × α) (he : e ∈ Memory.map d f m) :
    ∃ e' ∈ m, e = (e'.1, f e'.2) := by
  induction m with
  | nil => simp [Memory.map] at he
  | cons e' rest ih =>
    obtain ⟨k, v⟩ := e'
    simp only [Memory.map] at he
    split at he
    · obtain ⟨e', h, rfl⟩ := ih he
      exact ⟨e', List.mem_cons_of_mem _ h, rfl⟩
    · rcases List.mem_cons.1 he with rfl | he
      · exact ⟨(k, v), by simp, rfl⟩
      · obtain ⟨e', h, rfl⟩ := ih he
        exact ⟨e', List.mem_cons_of_mem _ h, rfl⟩

/-- A map keeps the canonical form. -/
theorem Memory.wf_map (f : α → α) (m : Memory α) (hm : Memory.wf d m = true) :
    Memory.wf d (Memory.map d f m) = true := by
  induction m with
  | nil => rfl
  | cons e rest ih =>
    obtain ⟨k, v⟩ := e
    obtain ⟨-, hlt, hrest⟩ := (Memory.wf_cons k v rest).1 hm
    simp only [Memory.map]
    split
    · exact ih hrest
    · rename_i hv
      refine (Memory.wf_cons _ _ _).2 ⟨hv, fun e he => ?_, ih hrest⟩
      obtain ⟨e', h, rfl⟩ := Memory.mem_map f rest e he
      exact hlt e' h

/-- Canonical arrays that read alike are equal. -/
theorem Memory.ext_read (m m' : Memory α) (hm : Memory.wf d m = true) (hm' : Memory.wf d m' = true)
    (h : ∀ a, Memory.read d m a = Memory.read d m' a) : m = m' := by
  induction m generalizing m' with
  | nil =>
    cases m' with
    | nil => rfl
    | cons e rest =>
      obtain ⟨k, v⟩ := e
      have := h k
      simp [Memory.read] at this
      exact absurd this.symm ((Memory.wf_cons k v rest).1 hm').1
  | cons e rest ih =>
    obtain ⟨k, v⟩ := e
    obtain ⟨hv, hlt, hrest⟩ := (Memory.wf_cons k v rest).1 hm
    cases m' with
    | nil =>
      have := h k
      simp [Memory.read] at this
      exact absurd this hv
    | cons e' rest' =>
      obtain ⟨k', v'⟩ := e'
      obtain ⟨hv', hlt', hrest'⟩ := (Memory.wf_cons k' v' rest').1 hm'
      have hkk : k = k' := by
        rcases Nat.lt_trichotomy k k' with hl | he | hg
        · have h1 := h k
          rw [Memory.read_of_lt ((k', v') :: rest') k fun e he => by
            rcases List.mem_cons.1 he with rfl | he
            · exact hl
            · exact hl.trans (hlt' e he)] at h1
          simp [Memory.read] at h1
          exact absurd h1 hv
        · exact he
        · have h1 := h k'
          rw [Memory.read_of_lt ((k, v) :: rest) k' fun e he => by
            rcases List.mem_cons.1 he with rfl | he
            · exact hg
            · exact hg.trans (hlt e he)] at h1
          simp [Memory.read] at h1
          exact absurd h1.symm hv'
      subst hkk
      have hvv : v = v' := by have := h k; simpa [Memory.read] using this
      have : rest = rest' := by
        refine ih rest' hrest hrest' fun a => ?_
        by_cases ha : k = a
        · subst ha
          rw [Memory.read_of_lt rest k hlt, Memory.read_of_lt rest' k hlt']
        · have := h a
          simpa [Memory.read, ha] using this
      rw [hvv, this]

end Sys2Proof.Machine
end

