-- ==== Sys2Proof/Laws/State.lean ====
section
/-! SUPPORT. One lemma per field per update, so that no later proof unfolds a record update. -/

namespace Sys2Proof.Machine

/-! ### Updates of a cache -/

@[simp] theorem Cache.withEntry_size (c : Cache) (row way : Nat) (e : Entry) : (c.withEntry row way e).size = c.size := rfl
@[simp] theorem Cache.withEntry_assoc (c : Cache) (row way : Nat) (e : Entry) : (c.withEntry row way e).assoc = c.assoc := rfl
@[simp] theorem Cache.withEntry_blockSize (c : Cache) (row way : Nat) (e : Entry) : (c.withEntry row way e).blockSize = c.blockSize := rfl
@[simp] theorem Cache.withEntry_rows (c : Cache) (row way : Nat) (e : Entry) : (c.withEntry row way e).rows = c.rows := rfl
@[simp] theorem Cache.withEntry_alloc (c : Cache) (row way : Nat) (e : Entry) : (c.withEntry row way e).alloc = c.alloc := rfl
@[simp] theorem Cache.withEntry_blockOffsetBits (c : Cache) (row way : Nat) (e : Entry) : (c.withEntry row way e).blockOffsetBits = c.blockOffsetBits := rfl
@[simp] theorem Cache.withEntry_rowBits (c : Cache) (row way : Nat) (e : Entry) : (c.withEntry row way e).rowBits = c.rowBits := rfl
@[simp] theorem Cache.withEntry_entries (c : Cache) (row way : Nat) (e : Entry) : (c.withEntry row way e).entries = Memory.write .unlisted c.entries (c.slot row way) e := rfl
@[simp] theorem Cache.withEntry_repl (c : Cache) (row way : Nat) (e : Entry) : (c.withEntry row way e).repl = c.repl := rfl
@[simp] theorem Cache.withEntry_counters (c : Cache) (row way : Nat) (e : Entry) : (c.withEntry row way e).counters = c.counters := rfl
@[simp] theorem Cache.withEntry_live (c : Cache) (row way : Nat) (e : Entry) : (c.withEntry row way e).live = c.live := rfl

@[simp] theorem Cache.install_size (c : Cache) (row way : Nat) (tag : Word) : (c.install row way tag).size = c.size := rfl
@[simp] theorem Cache.install_assoc (c : Cache) (row way : Nat) (tag : Word) : (c.install row way tag).assoc = c.assoc := rfl
@[simp] theorem Cache.install_blockSize (c : Cache) (row way : Nat) (tag : Word) : (c.install row way tag).blockSize = c.blockSize := rfl
@[simp] theorem Cache.install_rows (c : Cache) (row way : Nat) (tag : Word) : (c.install row way tag).rows = c.rows := rfl
@[simp] theorem Cache.install_alloc (c : Cache) (row way : Nat) (tag : Word) : (c.install row way tag).alloc = c.alloc := rfl
@[simp] theorem Cache.install_blockOffsetBits (c : Cache) (row way : Nat) (tag : Word) : (c.install row way tag).blockOffsetBits = c.blockOffsetBits := rfl
@[simp] theorem Cache.install_rowBits (c : Cache) (row way : Nat) (tag : Word) : (c.install row way tag).rowBits = c.rowBits := rfl
@[simp] theorem Cache.install_entries (c : Cache) (row way : Nat) (tag : Word) : (c.install row way tag).entries = Memory.write .unlisted c.entries (c.slot row way) { tag := tag, valid := true } := rfl
@[simp] theorem Cache.install_repl (c : Cache) (row way : Nat) (tag : Word) : (c.install row way tag).repl = c.repl := rfl
@[simp] theorem Cache.install_counters (c : Cache) (row way : Nat) (tag : Word) : (c.install row way tag).counters = c.counters := rfl
@[simp] theorem Cache.install_live (c : Cache) (row way : Nat) (tag : Word) : (c.install row way tag).live = c.live := rfl

@[simp] theorem Cache.clearValid_size (c : Cache) (row way : Nat) : (c.clearValid row way).size = c.size := rfl
@[simp] theorem Cache.clearValid_assoc (c : Cache) (row way : Nat) : (c.clearValid row way).assoc = c.assoc := rfl
@[simp] theorem Cache.clearValid_blockSize (c : Cache) (row way : Nat) : (c.clearValid row way).blockSize = c.blockSize := rfl
@[simp] theorem Cache.clearValid_rows (c : Cache) (row way : Nat) : (c.clearValid row way).rows = c.rows := rfl
@[simp] theorem Cache.clearValid_alloc (c : Cache) (row way : Nat) : (c.clearValid row way).alloc = c.alloc := rfl
@[simp] theorem Cache.clearValid_blockOffsetBits (c : Cache) (row way : Nat) : (c.clearValid row way).blockOffsetBits = c.blockOffsetBits := rfl
@[simp] theorem Cache.clearValid_rowBits (c : Cache) (row way : Nat) : (c.clearValid row way).rowBits = c.rowBits := rfl
@[simp] theorem Cache.clearValid_entries (c : Cache) (row way : Nat) : (c.clearValid row way).entries = Memory.write .unlisted c.entries (c.slot row way) { c.entry row way with valid := false } := rfl
@[simp] theorem Cache.clearValid_repl (c : Cache) (row way : Nat) : (c.clearValid row way).repl = c.repl := rfl
@[simp] theorem Cache.clearValid_counters (c : Cache) (row way : Nat) : (c.clearValid row way).counters = c.counters := rfl
@[simp] theorem Cache.clearValid_live (c : Cache) (row way : Nat) : (c.clearValid row way).live = c.live := rfl

@[simp] theorem Cache.clearAllValid_size (c : Cache) : (c.clearAllValid).size = c.size := rfl
@[simp] theorem Cache.clearAllValid_assoc (c : Cache) : (c.clearAllValid).assoc = c.assoc := rfl
@[simp] theorem Cache.clearAllValid_blockSize (c : Cache) : (c.clearAllValid).blockSize = c.blockSize := rfl
@[simp] theorem Cache.clearAllValid_rows (c : Cache) : (c.clearAllValid).rows = c.rows := rfl
@[simp] theorem Cache.clearAllValid_alloc (c : Cache) : (c.clearAllValid).alloc = c.alloc := rfl
@[simp] theorem Cache.clearAllValid_blockOffsetBits (c : Cache) : (c.clearAllValid).blockOffsetBits = c.blockOffsetBits := rfl
@[simp] theorem Cache.clearAllValid_rowBits (c : Cache) : (c.clearAllValid).rowBits = c.rowBits := rfl
@[simp] theorem Cache.clearAllValid_entries (c : Cache) : (c.clearAllValid).entries = Memory.map .unlisted (fun e => { e with valid := false }) c.entries := rfl
@[simp] theorem Cache.clearAllValid_repl (c : Cache) : (c.clearAllValid).repl = c.repl := rfl
@[simp] theorem Cache.clearAllValid_counters (c : Cache) : (c.clearAllValid).counters = c.counters := rfl
@[simp] theorem Cache.clearAllValid_live (c : Cache) : (c.clearAllValid).live = c.live := rfl

@[simp] theorem Cache.teardown_size (c : Cache) : (c.teardown).size = c.size := rfl
@[simp] theorem Cache.teardown_assoc (c : Cache) : (c.teardown).assoc = c.assoc := rfl
@[simp] theorem Cache.teardown_blockSize (c : Cache) : (c.teardown).blockSize = c.blockSize := rfl
@[simp] theorem Cache.teardown_rows (c : Cache) : (c.teardown).rows = c.rows := rfl
@[simp] theorem Cache.teardown_alloc (c : Cache) : (c.teardown).alloc = c.alloc := rfl
@[simp] theorem Cache.teardown_blockOffsetBits (c : Cache) : (c.teardown).blockOffsetBits = c.blockOffsetBits := rfl
@[simp] theorem Cache.teardown_rowBits (c : Cache) : (c.teardown).rowBits = c.rowBits := rfl
@[simp] theorem Cache.teardown_entries (c : Cache) : (c.teardown).entries = c.entries := rfl
@[simp] theorem Cache.teardown_repl (c : Cache) : (c.teardown).repl = c.repl := rfl
@[simp] theorem Cache.teardown_counters (c : Cache) : (c.teardown).counters = c.counters := rfl
@[simp] theorem Cache.teardown_live (c : Cache) : (c.teardown).live = false := rfl

@[simp] theorem Cache.fillWay_size (c : Cache) (row way : Nat) (tag : Word) : (c.fillWay row way tag).size = c.size := rfl
@[simp] theorem Cache.fillWay_assoc (c : Cache) (row way : Nat) (tag : Word) : (c.fillWay row way tag).assoc = c.assoc := rfl
@[simp] theorem Cache.fillWay_blockSize (c : Cache) (row way : Nat) (tag : Word) : (c.fillWay row way tag).blockSize = c.blockSize := rfl
@[simp] theorem Cache.fillWay_rows (c : Cache) (row way : Nat) (tag : Word) : (c.fillWay row way tag).rows = c.rows := rfl
@[simp] theorem Cache.fillWay_alloc (c : Cache) (row way : Nat) (tag : Word) : (c.fillWay row way tag).alloc = c.alloc := rfl
@[simp] theorem Cache.fillWay_blockOffsetBits (c : Cache) (row way : Nat) (tag : Word) : (c.fillWay row way tag).blockOffsetBits = c.blockOffsetBits := rfl
@[simp] theorem Cache.fillWay_rowBits (c : Cache) (row way : Nat) (tag : Word) : (c.fillWay row way tag).rowBits = c.rowBits := rfl
@[simp] theorem Cache.fillWay_entries (c : Cache) (row way : Nat) (tag : Word) : (c.fillWay row way tag).entries = (c.install row way tag).entries := rfl
@[simp] theorem Cache.fillWay_repl (c : Cache) (row way : Nat) (tag : Word) : (c.fillWay row way tag).repl = c.repl := rfl
@[simp] theorem Cache.fillWay_counters (c : Cache) (row way : Nat) (tag : Word) : (c.fillWay row way tag).counters = if (c.entry row way).valid then { c.counters with evictions := c.counters.evictions + 1 }
    else { c.counters with compulsoryMisses := c.counters.compulsoryMisses + 1 } := rfl
@[simp] theorem Cache.fillWay_live (c : Cache) (row way : Nat) (tag : Word) : (c.fillWay row way tag).live = c.live := rfl

/-! ### Updates of the block -/

@[simp] theorem Block.l2Load_icache (b : Block) (addr : Word) : (b.l2Load addr).icache = b.icache := rfl
@[simp] theorem Block.l2Load_dcache (b : Block) (addr : Word) : (b.l2Load addr).dcache = b.dcache := rfl
@[simp] theorem Block.l2Load_l2 (b : Block) (addr : Word) : (b.l2Load addr).l2 = (b.l2.load addr).2 := rfl
@[simp] theorem Block.l2Load_seeds (b : Block) (addr : Word) : (b.l2Load addr).seeds = b.seeds := rfl
@[simp] theorem Block.l2Load_insnCount (b : Block) (addr : Word) : (b.l2Load addr).insnCount = b.insnCount := rfl
@[simp] theorem Block.l2Load_loadCount (b : Block) (addr : Word) : (b.l2Load addr).loadCount = b.loadCount := rfl
@[simp] theorem Block.l2Load_storeCount (b : Block) (addr : Word) : (b.l2Load addr).storeCount = b.storeCount := rfl
@[simp] theorem Block.l2Load_textStart (b : Block) (addr : Word) : (b.l2Load addr).textStart = b.textStart := rfl
@[simp] theorem Block.l2Load_textEnd (b : Block) (addr : Word) : (b.l2Load addr).textEnd = b.textEnd := rfl
@[simp] theorem Block.l2Load_armEnable (b : Block) (addr : Word) : (b.l2Load addr).armEnable = b.armEnable := rfl
@[simp] theorem Block.l2Load_cur (b : Block) (addr : Word) : (b.l2Load addr).cur = b.cur := rfl
@[simp] theorem Block.l2Load_injState (b : Block) (addr : Word) : (b.l2Load addr).injState = b.injState := rfl
@[simp] theorem Block.l2Load_plan (b : Block) (addr : Word) : (b.l2Load addr).plan = b.plan := rfl

@[simp] theorem Block.l2Store_icache (b : Block) (addr : Word) : (b.l2Store addr).icache = b.icache := rfl
@[simp] theorem Block.l2Store_dcache (b : Block) (addr : Word) : (b.l2Store addr).dcache = b.dcache := rfl
@[simp] theorem Block.l2Store_l2 (b : Block) (addr : Word) : (b.l2Store addr).l2 = (b.l2.store addr).2 := rfl
@[simp] theorem Block.l2Store_seeds (b : Block) (addr : Word) : (b.l2Store addr).seeds = b.seeds := rfl
@[simp] theorem Block.l2Store_insnCount (b : Block) (addr : Word) : (b.l2Store addr).insnCount = b.insnCount := rfl
@[simp] theorem Block.l2Store_loadCount (b : Block) (addr : Word) : (b.l2Store addr).loadCount = b.loadCount := rfl
@[simp] theorem Block.l2Store_storeCount (b : Block) (addr : Word) : (b.l2Store addr).storeCount = b.storeCount := rfl
@[simp] theorem Block.l2Store_textStart (b : Block) (addr : Word) : (b.l2Store addr).textStart = b.textStart := rfl
@[simp] theorem Block.l2Store_textEnd (b : Block) (addr : Word) : (b.l2Store addr).textEnd = b.textEnd := rfl
@[simp] theorem Block.l2Store_armEnable (b : Block) (addr : Word) : (b.l2Store addr).armEnable = b.armEnable := rfl
@[simp] theorem Block.l2Store_cur (b : Block) (addr : Word) : (b.l2Store addr).cur = b.cur := rfl
@[simp] theorem Block.l2Store_injState (b : Block) (addr : Word) : (b.l2Store addr).injState = b.injState := rfl
@[simp] theorem Block.l2Store_plan (b : Block) (addr : Word) : (b.l2Store addr).plan = b.plan := rfl

@[simp] theorem Block.icacheInvalidateAll_icache (b : Block) : (b.icacheInvalidateAll).icache = b.icache.invalidateAll := rfl
@[simp] theorem Block.icacheInvalidateAll_dcache (b : Block) : (b.icacheInvalidateAll).dcache = b.dcache := rfl
@[simp] theorem Block.icacheInvalidateAll_l2 (b : Block) : (b.icacheInvalidateAll).l2 = b.l2 := rfl
@[simp] theorem Block.icacheInvalidateAll_seeds (b : Block) : (b.icacheInvalidateAll).seeds = b.seeds := rfl
@[simp] theorem Block.icacheInvalidateAll_insnCount (b : Block) : (b.icacheInvalidateAll).insnCount = b.insnCount := rfl
@[simp] theorem Block.icacheInvalidateAll_loadCount (b : Block) : (b.icacheInvalidateAll).loadCount = b.loadCount := rfl
@[simp] theorem Block.icacheInvalidateAll_storeCount (b : Block) : (b.icacheInvalidateAll).storeCount = b.storeCount := rfl
@[simp] theorem Block.icacheInvalidateAll_textStart (b : Block) : (b.icacheInvalidateAll).textStart = b.textStart := rfl
@[simp] theorem Block.icacheInvalidateAll_textEnd (b : Block) : (b.icacheInvalidateAll).textEnd = b.textEnd := rfl
@[simp] theorem Block.icacheInvalidateAll_armEnable (b : Block) : (b.icacheInvalidateAll).armEnable = b.armEnable := rfl
@[simp] theorem Block.icacheInvalidateAll_cur (b : Block) : (b.icacheInvalidateAll).cur = b.cur := rfl
@[simp] theorem Block.icacheInvalidateAll_injState (b : Block) : (b.icacheInvalidateAll).injState = b.injState := rfl
@[simp] theorem Block.icacheInvalidateAll_plan (b : Block) : (b.icacheInvalidateAll).plan = b.plan := rfl

@[simp] theorem Block.dcacheInvalidateBlock_icache (b : Block) (row way : Nat) : (b.dcacheInvalidateBlock row way).icache = b.icache := rfl
@[simp] theorem Block.dcacheInvalidateBlock_dcache (b : Block) (row way : Nat) : (b.dcacheInvalidateBlock row way).dcache = b.dcache.invalidateBlock row way := rfl
@[simp] theorem Block.dcacheInvalidateBlock_l2 (b : Block) (row way : Nat) : (b.dcacheInvalidateBlock row way).l2 = b.l2 := rfl
@[simp] theorem Block.dcacheInvalidateBlock_seeds (b : Block) (row way : Nat) : (b.dcacheInvalidateBlock row way).seeds = b.seeds := rfl
@[simp] theorem Block.dcacheInvalidateBlock_insnCount (b : Block) (row way : Nat) : (b.dcacheInvalidateBlock row way).insnCount = b.insnCount := rfl
@[simp] theorem Block.dcacheInvalidateBlock_loadCount (b : Block) (row way : Nat) : (b.dcacheInvalidateBlock row way).loadCount = b.loadCount := rfl
@[simp] theorem Block.dcacheInvalidateBlock_storeCount (b : Block) (row way : Nat) : (b.dcacheInvalidateBlock row way).storeCount = b.storeCount := rfl
@[simp] theorem Block.dcacheInvalidateBlock_textStart (b : Block) (row way : Nat) : (b.dcacheInvalidateBlock row way).textStart = b.textStart := rfl
@[simp] theorem Block.dcacheInvalidateBlock_textEnd (b : Block) (row way : Nat) : (b.dcacheInvalidateBlock row way).textEnd = b.textEnd := rfl
@[simp] theorem Block.dcacheInvalidateBlock_armEnable (b : Block) (row way : Nat) : (b.dcacheInvalidateBlock row way).armEnable = b.armEnable := rfl
@[simp] theorem Block.dcacheInvalidateBlock_cur (b : Block) (row way : Nat) : (b.dcacheInvalidateBlock row way).cur = b.cur := rfl
@[simp] theorem Block.dcacheInvalidateBlock_injState (b : Block) (row way : Nat) : (b.dcacheInvalidateBlock row way).injState = b.injState := rfl
@[simp] theorem Block.dcacheInvalidateBlock_plan (b : Block) (row way : Nat) : (b.dcacheInvalidateBlock row way).plan = b.plan := rfl

@[simp] theorem Block.teardown_icache (b : Block) : (b.teardown).icache = b.icache.teardown := rfl
@[simp] theorem Block.teardown_dcache (b : Block) : (b.teardown).dcache = b.dcache.teardown := rfl
@[simp] theorem Block.teardown_l2 (b : Block) : (b.teardown).l2 = b.l2.teardown := rfl
@[simp] theorem Block.teardown_seeds (b : Block) : (b.teardown).seeds = b.seeds := rfl
@[simp] theorem Block.teardown_insnCount (b : Block) : (b.teardown).insnCount = b.insnCount := rfl
@[simp] theorem Block.teardown_loadCount (b : Block) : (b.teardown).loadCount = b.loadCount := rfl
@[simp] theorem Block.teardown_storeCount (b : Block) : (b.teardown).storeCount = b.storeCount := rfl
@[simp] theorem Block.teardown_textStart (b : Block) : (b.teardown).textStart = b.textStart := rfl
@[simp] theorem Block.teardown_textEnd (b : Block) : (b.teardown).textEnd = b.textEnd := rfl
@[simp] theorem Block.teardown_armEnable (b : Block) : (b.teardown).armEnable = b.armEnable := rfl
@[simp] theorem Block.teardown_cur (b : Block) : (b.teardown).cur = b.cur := rfl
@[simp] theorem Block.teardown_injState (b : Block) : (b.teardown).injState = b.injState := rfl
@[simp] theorem Block.teardown_plan (b : Block) : (b.teardown).plan = b.plan := rfl

@[simp] theorem Block.withCache_seeds (b : Block) (c : CacheId) (v : Cache) : (b.withCache c v).seeds = b.seeds := by cases c <;> rfl
@[simp] theorem Block.withCache_insnCount (b : Block) (c : CacheId) (v : Cache) : (b.withCache c v).insnCount = b.insnCount := by cases c <;> rfl
@[simp] theorem Block.withCache_loadCount (b : Block) (c : CacheId) (v : Cache) : (b.withCache c v).loadCount = b.loadCount := by cases c <;> rfl
@[simp] theorem Block.withCache_storeCount (b : Block) (c : CacheId) (v : Cache) : (b.withCache c v).storeCount = b.storeCount := by cases c <;> rfl
@[simp] theorem Block.withCache_textStart (b : Block) (c : CacheId) (v : Cache) : (b.withCache c v).textStart = b.textStart := by cases c <;> rfl
@[simp] theorem Block.withCache_textEnd (b : Block) (c : CacheId) (v : Cache) : (b.withCache c v).textEnd = b.textEnd := by cases c <;> rfl
@[simp] theorem Block.withCache_armEnable (b : Block) (c : CacheId) (v : Cache) : (b.withCache c v).armEnable = b.armEnable := by cases c <;> rfl
@[simp] theorem Block.withCache_cur (b : Block) (c : CacheId) (v : Cache) : (b.withCache c v).cur = b.cur := by cases c <;> rfl
@[simp] theorem Block.withCache_injState (b : Block) (c : CacheId) (v : Cache) : (b.withCache c v).injState = b.injState := by cases c <;> rfl
@[simp] theorem Block.withCache_plan (b : Block) (c : CacheId) (v : Cache) : (b.withCache c v).plan = b.plan := by cases c <;> rfl

@[simp] theorem Block.cache_withCache_self (b : Block) (c : CacheId) (v : Cache) : (b.withCache c v).cache c = v := by
  cases c <;> rfl

theorem Block.cache_withCache_ne (b : Block) (c c' : CacheId) (v : Cache) (h : c' ≠ c) :
    (b.withCache c v).cache c' = b.cache c' := by
  cases c <;> cases c' <;> first | rfl | exact absurd rfl h

@[simp] theorem Block.withCache_cache (b : Block) (c : CacheId) : b.withCache c (b.cache c) = b := by
  cases c <;> rfl

/-! ### Updates of the machine -/

@[simp] theorem State.accept_block (s : State) (q : Request) (rest : List Request) : (s.accept q rest).block = s.block := by
  cases q with
  | command _ _ => rfl
  | event _ _ => simp only [State.accept]; split <;> rfl
@[simp] theorem State.accept_outputs (s : State) (q : Request) (rest : List Request) : (s.accept q rest).outputs = s.outputs := by
  cases q with
  | command _ _ => rfl
  | event _ _ => simp only [State.accept]; split <;> rfl
@[simp] theorem State.accept_freeCount (s : State) (q : Request) (rest : List Request) :
    (s.accept q rest).freeCount = s.freeCount := by
  cases q with
  | command _ _ => rfl
  | event _ _ => simp only [State.accept]; split <;> rfl
@[simp] theorem State.accept_inbox (s : State) (q : Request) (rest : List Request) : (s.accept q rest).inbox = rest := by
  cases q with
  | command _ _ => rfl
  | event _ _ => simp only [State.accept]; split <;> rfl

@[simp] theorem State.accept_command (s : State) (code : BitVec 6) (a : CommandArgs) (rest : List Request) :
    s.accept (.command code a) rest = { s with inbox := rest } := rfl

@[simp] theorem State.accept_insnExec (s : State) (a : EventArgs) (rest : List Request) :
    s.accept (.event 1#3 a) rest = { s with inbox := rest, insnVaddr := a.vaddr, gpr := a.gpr } := rfl

theorem State.accept_event (s : State) (code : BitVec 3) (a : EventArgs) (rest : List Request) (h : code ≠ 1#3) :
    s.accept (.event code a) rest = { s with inbox := rest } := by
  simp [State.accept, h]

end Sys2Proof.Machine
end

