-- ==== Sys2Proof/Laws/Cache.lean ====
section
/-! SUPPORT. The cache engine: what each operation of spec 40_cache_engine.md can do, said once. -/

namespace Sys2Proof.Machine

/-! ### Entries -/

/-- Distinct in-range slots have distinct indices. -/
theorem Cache.slot_injective (c : Cache) {row way row' way' : Nat} (hw : way < c.assoc) (hw' : way' < c.assoc)
    (h : c.slot row way = c.slot row' way') : row = row' ∧ way = way' := by
  simp only [Cache.slot] at h
  have hpos : 0 < c.assoc := by omega
  have h1 := congrArg (· / c.assoc) h
  have h2 := congrArg (· % c.assoc) h
  simp only [Nat.mul_comm _ c.assoc, Nat.mul_add_div hpos, Nat.mul_add_mod, Nat.div_eq_of_lt hw,
    Nat.div_eq_of_lt hw', Nat.mod_eq_of_lt hw, Nat.mod_eq_of_lt hw', Nat.add_zero] at h1 h2
  exact ⟨h1, h2⟩

/-- An in-range slot lies inside the array. -/
theorem Cache.slot_lt (c : Cache) {row way : Nat} (hr : row < c.rows) (hw : way < c.assoc) :
    c.slot row way < c.rows * c.assoc := by
  simp only [Cache.slot]
  calc row * c.assoc + way < row * c.assoc + c.assoc := by omega
    _ = (row + 1) * c.assoc := by ring
    _ ≤ c.rows * c.assoc := Nat.mul_le_mul_right _ hr

theorem Cache.entry_withEntry_self (c : Cache) (h : Memory.wf .unlisted c.entries = true) (row way : Nat) (e : Entry) :
    (c.withEntry row way e).entry row way = e :=
  Memory.read_write_self c.entries h _ e

theorem Cache.entry_withEntry_ne (c : Cache) {row way row' way' : Nat} (e : Entry) (hw : way < c.assoc)
    (hw' : way' < c.assoc) (hne : ¬(row' = row ∧ way' = way)) :
    (c.withEntry row way e).entry row' way' = c.entry row' way' :=
  Memory.read_write_ne c.entries _ _ e fun h => hne (c.slot_injective hw' hw h)

theorem Cache.entry_clearAllValid (c : Cache) (h : Memory.wf .unlisted c.entries = true) (row way : Nat) :
    c.clearAllValid.entry row way = { c.entry row way with valid := false } :=
  Memory.read_map _ rfl c.entries h _

/-! ### Lookup and free way -/

theorem find_range_some {n w : Nat} {p : Nat → Bool} :
    (List.range n).find? p = some w ↔ w < n ∧ p w = true ∧ ∀ v < w, p v = false := by
  rw [List.find?_range_eq_some]
  simp [and_left_comm]

theorem find_range_none {n : Nat} {p : Nat → Bool} :
    (List.range n).find? p = none ↔ ∀ w < n, p w = false := by
  simp

/-- R132: lookup finds a way iff some way of the row holds the tag validly. -/
theorem Cache.lookup_isSome (c : Cache) (row : Nat) (tag : Word) :
    (c.lookup row tag).isSome = true ↔
      ∃ w < c.assoc, (c.entry row w).valid = true ∧ (c.entry row w).tag = tag := by
  simp [Cache.lookup, Cache.holds, List.find?_isSome]

/-- R134: the free way is the lowest one whose entry is not valid. -/
theorem Cache.freeWay_some (c : Cache) {row w : Nat} :
    c.freeWay row = some w ↔
      w < c.assoc ∧ (c.entry row w).valid = false ∧ ∀ v < w, (c.entry row v).valid = true := by
  simp [Cache.freeWay, and_left_comm]

/-- R134: there is no free way iff every way of the row is valid. -/
theorem Cache.freeWay_none (c : Cache) {row : Nat} :
    c.freeWay row = none ↔ ∀ w < c.assoc, (c.entry row w).valid = true := by
  simp [Cache.freeWay]

/-- The way a fill of the row writes: the lowest invalid one, else the victim (R134). -/
def Cache.targetWay (c : Cache) (row : Nat) : Nat := (c.freeWay row).getD (c.victimWay row)

/-- The replacement state after a fill of the row: it moves only when a victim is selected (R133, R134). -/
def Cache.filledRepl (c : Cache) (row : Nat) : ReplState :=
  if (c.freeWay row).isSome then c.repl else c.victimRepl row

/-- What a fill does (R134). -/
theorem Cache.fill_eq (c : Cache) (row : Nat) (tag : Word) :
    c.fill row tag =
      { c with
        entries := (c.install row (c.targetWay row) tag).entries
        repl := c.filledRepl row
        counters :=
          if (c.entry row (c.targetWay row)).valid then
            { c.counters with evictions := c.counters.evictions + 1 }
          else { c.counters with compulsoryMisses := c.counters.compulsoryMisses + 1 } } := by
  unfold Cache.fill Cache.targetWay Cache.filledRepl
  cases c.freeWay row <;> rfl

@[simp] theorem Cache.fill_assoc (c : Cache) (row : Nat) (tag : Word) : (c.fill row tag).assoc = c.assoc := by
  rw [Cache.fill_eq]
@[simp] theorem Cache.fill_rows (c : Cache) (row : Nat) (tag : Word) : (c.fill row tag).rows = c.rows := by
  rw [Cache.fill_eq]
@[simp] theorem Cache.fill_live (c : Cache) (row : Nat) (tag : Word) : (c.fill row tag).live = c.live := by
  rw [Cache.fill_eq]

/-! ### The victim (R135, R136) -/

/-- The victim of a sound cache is one of its ways. -/
theorem Cache.victimWay_lt (c : Cache) (row : Nat) (hpos : 0 < c.assoc) (h : c.repl.Sound c.rows c.assoc) :
    c.victimWay row < c.assoc := by
  unfold Cache.victimWay
  unfold ReplState.Sound at h
  split
  · rename_i nw hn
    rw [hn] at h
    by_cases h0 : Memory.read 0 nw row = 0
    · rw [h0]; exact hpos
    · exact (h.2 _ (Memory.mem_of_read nw row h0)).2
  · exact Nat.mod_lt _ hpos

/-- The way a fill writes is one of the cache's ways. -/
theorem Cache.targetWay_lt (c : Cache) (row : Nat) (hpos : 0 < c.assoc) (h : c.repl.Sound c.rows c.assoc) :
    c.targetWay row < c.assoc := by
  unfold Cache.targetWay
  cases hf : c.freeWay row with
  | none => simpa using c.victimWay_lt row hpos h
  | some w => simpa using (c.freeWay_some.1 hf).1

/-- Victim selection keeps the replacement state sound. -/
theorem Cache.victimRepl_sound (c : Cache) (row : Nat) (hr : row < c.rows) (hpos : 0 < c.assoc)
    (h : c.repl.Sound c.rows c.assoc) : (c.victimRepl row).Sound c.rows c.assoc := by
  unfold Cache.victimRepl
  unfold ReplState.Sound at h
  split
  · rename_i nw hn
    rw [hn] at h
    refine ⟨Memory.wf_write _ h.1 _ _, fun e he => ?_⟩
    rcases Memory.mem_write _ _ _ _ he with he | ⟨rfl, -⟩
    · exact h.2 e he
    · exact ⟨hr, Nat.mod_lt _ hpos⟩
  · trivial

theorem Cache.filledRepl_sound (c : Cache) (row : Nat) (hr : row < c.rows) (hpos : 0 < c.assoc)
    (h : c.repl.Sound c.rows c.assoc) : (c.filledRepl row).Sound c.rows c.assoc := by
  unfold Cache.filledRepl
  split
  · exact h
  · exact c.victimRepl_sound row hr hpos h

/-! ### Accesses (R137, R138) -/

/-- What a load does: nothing after teardown; on a hit one counter; on a miss one counter and a fill. -/
theorem Cache.load_cases (c : Cache) (addr : Word) :
    (c.live = false ∧ c.load addr = (.miss, c))
    ∨ (c.live = true ∧ (c.lookup (c.rowOf addr) (c.tagOf addr)).isSome = true ∧
        c.load addr = (.hit, { c with counters := { c.counters with loadHits := c.counters.loadHits + 1 } }))
    ∨ (c.live = true ∧ (c.lookup (c.rowOf addr) (c.tagOf addr)).isSome = false ∧
        c.load addr = (.miss, Cache.fill
          { c with counters := { c.counters with loadMisses := c.counters.loadMisses + 1 } }
          (c.rowOf addr) (c.tagOf addr))) := by
  unfold Cache.load
  cases hl : c.live <;> cases hs : (c.lookup (c.rowOf addr) (c.tagOf addr)).isSome <;> simp

/-- What a store does: nothing after teardown; on a hit one counter; on a miss one counter, and a fill if the cache
allocates on writes. -/
theorem Cache.store_cases (c : Cache) (addr : Word) :
    (c.live = false ∧ c.store addr = (.miss, c))
    ∨ (c.live = true ∧ (c.lookup (c.rowOf addr) (c.tagOf addr)).isSome = true ∧
        c.store addr = (.hit, { c with counters := { c.counters with storeHits := c.counters.storeHits + 1 } }))
    ∨ (c.live = true ∧ (c.lookup (c.rowOf addr) (c.tagOf addr)).isSome = false ∧ c.alloc = .noWriteAllocate ∧
        c.store addr = (.miss, { c with counters := { c.counters with storeMisses := c.counters.storeMisses + 1 } }))
    ∨ (c.live = true ∧ (c.lookup (c.rowOf addr) (c.tagOf addr)).isSome = false ∧ c.alloc = .writeAllocate ∧
        c.store addr = (.miss, Cache.fill
          { c with counters := { c.counters with storeMisses := c.counters.storeMisses + 1 } }
          (c.rowOf addr) (c.tagOf addr))) := by
  unfold Cache.store
  cases hl : c.live <;> cases hs : (c.lookup (c.rowOf addr) (c.tagOf addr)).isSome <;> cases ha : c.alloc <;> simp

/-! ### Maintenance and probes (R139 to R145) -/

/-- What `invalidate_block` does. -/
theorem Cache.invalidateBlock_cases (c : Cache) (row way : Nat) :
    (c.live = true ∧ row < c.rows ∧ way < c.assoc ∧ c.invalidateBlock row way = c.clearValid row way)
    ∨ ((c.live = false ∨ c.rows ≤ row ∨ c.assoc ≤ way) ∧ c.invalidateBlock row way = c) := by
  unfold Cache.invalidateBlock Cache.inRange
  by_cases hl : c.live = true <;> by_cases hr : row < c.rows <;> by_cases hw : way < c.assoc <;>
    simp_all

/-- What `invalidate_all` does. -/
theorem Cache.invalidateAll_cases (c : Cache) :
    (c.live = true ∧ c.invalidateAll = c.clearAllValid) ∨ (c.live = false ∧ c.invalidateAll = c) := by
  unfold Cache.invalidateAll
  cases hl : c.live <;> simp

/-- When an entry probes valid (R142). -/
theorem Cache.isBlockValid_iff (c : Cache) (row way : Nat) :
    c.isBlockValid row way = true ↔
      c.live = true ∧ row < c.rows ∧ way < c.assoc ∧ (c.entry row way).valid = true := by
  simp [Cache.isBlockValid, Cache.inRange, and_assoc]

/-! ### Soundness -/

theorem Cache.Sound.assoc_pos {c : Cache} (h : c.Sound) : 0 < c.assoc := by
  obtain ⟨k, hk⟩ := h.assoc_pow
  rw [hk]; positivity

theorem Cache.Sound.rows_pos {c : Cache} (h : c.Sound) : 0 < c.rows := by
  rw [h.rows_pow]; positivity

/-- An address selects a row of the cache (R131). -/
theorem Cache.Sound.rowOf_lt {c : Cache} (h : c.Sound) (addr : Word) : c.rowOf addr < c.rows :=
  Nat.mod_lt _ h.rows_pos

/-- The tag of an address has only its low `XLEN - tag_shift` bits (R22, R131). -/
theorem Cache.tagOf_narrow (c : Cache) (addr : Word) :
    (c.tagOf addr).toNat < 2 ^ (Config.xlen - c.tagShift) := by
  have := addr.isLt
  simp only [Cache.tagOf, BitVec.toNat_ushiftRight, Nat.shiftRight_eq_div_pow, Config.xlen]
  by_cases hk : c.tagShift ≤ 32
  · rw [Nat.div_lt_iff_lt_mul (by positivity), ← pow_add]
    rwa [Nat.sub_add_cancel hk]
  · have h2 : 2 ^ 32 ≤ 2 ^ c.tagShift := Nat.pow_le_pow_right (by norm_num) (by omega)
    rw [Nat.div_eq_of_lt (by omega)]
    positivity

end Sys2Proof.Machine
end

