-- ==== Sys2Proof/Laws/Soundness.lean ====
section
/-! SUPPORT. The structural invariants of one cache (spec R26, R27) under its operations. -/

namespace Sys2Proof.Machine

/-- Counters and the validity flag take no part in the structural invariants but R27. -/
theorem Cache.Sound.withCounters {c : Cache} (h : c.Sound) (k : Counters) (live : Bool)
    (hk : k.compulsoryMisses + k.evictions = k.loadMisses + (if c.alloc = .writeAllocate then k.storeMisses else 0)) :
    Cache.Sound { c with counters := k, live := live } :=
  { assoc_pow := h.assoc_pow, block_pow := h.block_pow, rows_pow := h.rows_pow, geometry := h.geometry
    entries_wf := h.entries_wf, entries_inside := h.entries_inside, tags_distinct := h.tags_distinct
    tags_narrow := h.tags_narrow, repl_sound := h.repl_sound, fills_counted := hk }

/-- A fill with a tag that no way of the row holds validly (R134), whose miss `k` has counted. -/
theorem Cache.Sound.filled {c : Cache} (h : c.Sound) {row : Nat} (hr : row < c.rows) (tag : Word)
    (ht : tag.toNat < 2 ^ (Config.xlen - c.tagShift))
    (hno : ∀ w < c.assoc, (c.entry row w).valid = true → (c.entry row w).tag ≠ tag) (k : Counters)
    (hk : k.compulsoryMisses + k.evictions + 1
      = k.loadMisses + (if c.alloc = .writeAllocate then k.storeMisses else 0)) :
    (Cache.fill { c with counters := k } row tag).Sound := by
  rw [Cache.fill_eq]
  have htw : Cache.targetWay { c with counters := k } row = c.targetWay row := rfl
  have hfr : Cache.filledRepl { c with counters := k } row = c.filledRepl row := rfl
  have hin : Cache.entries (Cache.install { c with counters := k } row (c.targetWay row) tag)
      = (c.install row (c.targetWay row) tag).entries := rfl
  have hlt := c.targetWay_lt row h.assoc_pos h.repl_sound
  have hent : ∀ r w, w < c.assoc → (c.install row (c.targetWay row) tag).entry r w
      = if r = row ∧ w = c.targetWay row then { tag := tag, valid := true } else c.entry r w := by
    intro r w hw
    split
    · rename_i he
      rw [he.1, he.2]
      exact c.entry_withEntry_self h.entries_wf _ _ _
    · rename_i he
      exact c.entry_withEntry_ne _ hlt hw he
  have hE : ∀ r w, Cache.entry { c with
      entries := (c.install row (c.targetWay row) tag).entries
      repl := c.filledRepl row
      counters :=
        if (c.entry row (c.targetWay row)).valid then { k with evictions := k.evictions + 1 }
        else { k with compulsoryMisses := k.compulsoryMisses + 1 } } r w
      = (c.install row (c.targetWay row) tag).entry r w := fun _ _ => rfl
  simp only [htw, hfr, hin]
  refine { assoc_pow := h.assoc_pow, block_pow := h.block_pow, rows_pow := h.rows_pow, geometry := h.geometry
           entries_wf := Memory.wf_write _ h.entries_wf _ _, entries_inside := ?_, tags_distinct := ?_
           tags_narrow := ?_, repl_sound := c.filledRepl_sound row hr h.assoc_pos h.repl_sound
           fills_counted := ?_ }
  · intro e he
    rcases Memory.mem_write _ _ _ _ he with he | ⟨rfl, -⟩
    · exact h.entries_inside e he
    · exact c.slot_lt hr hlt
  · intro r w1 w2 hr' hw1 hw2
    change w1 < c.assoc at hw1
    change w2 < c.assoc at hw2
    have e1 := hE r w1
    have e2 := hE r w2
    rw [hent r w1 hw1] at e1
    rw [hent r w2 hw2] at e2
    have h1 : ∀ x, Cache.entry { c with counters := k } row x = c.entry row x := fun _ => rfl
    simp only [h1]
    rw [e1, e2]
    by_cases c1 : r = row ∧ w1 = c.targetWay row
    · by_cases c2 : r = row ∧ w2 = c.targetWay row
      · intros; rw [c1.2, c2.2]
      · simp only [if_pos c1, if_neg c2]
        intro _ hv hteq
        exact absurd (c1.1 ▸ hteq.symm) (hno w2 hw2 (c1.1 ▸ hv))
    · by_cases c2 : r = row ∧ w2 = c.targetWay row
      · simp only [if_neg c1, if_pos c2]
        intro hv _ hteq
        exact absurd (c2.1 ▸ hteq) (hno w1 hw1 (c2.1 ▸ hv))
      · simp only [if_neg c1, if_neg c2]
        exact h.tags_distinct r w1 w2 hr' hw1 hw2
  · intro r w hr' hw
    change w < c.assoc at hw
    have e1 := hE r w
    rw [hent r w hw] at e1
    have h1 : ∀ x, Cache.entry { c with counters := k } row x = c.entry row x := fun _ => rfl
    simp only [h1]
    rw [e1]
    split
    · exact ht
    · exact h.tags_narrow r w hr' hw
  · have h1 : ∀ x, Cache.entry { c with counters := k } row x = c.entry row x := fun _ => rfl
    simp only [h1]
    cases (c.entry row (c.targetWay row)).valid <;> simp <;> omega

/-- A load keeps a cache sound (R137). -/
theorem Cache.Sound.load {c : Cache} (h : c.Sound) (addr : Word) : (c.load addr).2.Sound := by
  rcases c.load_cases addr with ⟨-, e⟩ | ⟨-, -, e⟩ | ⟨-, hno, e⟩ <;> rw [e]
  · exact h
  · exact h.withCounters _ _ h.fills_counted
  · refine h.filled (h.rowOf_lt addr) _ (c.tagOf_narrow addr) ?_ _ ?_
    · intro w hw hv ht
      have := (c.lookup_isSome _ _).2 ⟨w, hw, hv, ht⟩
      rw [hno] at this
      exact Bool.noConfusion this
    · have := h.fills_counted
      simp only; omega

/-- A store keeps a cache sound (R138). -/
theorem Cache.Sound.store {c : Cache} (h : c.Sound) (addr : Word) : (c.store addr).2.Sound := by
  rcases c.store_cases addr with ⟨-, e⟩ | ⟨-, -, e⟩ | ⟨-, -, ha, e⟩ | ⟨-, hno, ha, e⟩ <;> rw [e]
  · exact h
  · exact h.withCounters _ _ h.fills_counted
  · refine h.withCounters _ _ ?_
    have := h.fills_counted
    simpa [ha] using this
  · refine h.filled (h.rowOf_lt addr) _ (c.tagOf_narrow addr) ?_ _ ?_
    · intro w hw hv ht
      have := (c.lookup_isSome _ _).2 ⟨w, hw, hv, ht⟩
      rw [hno] at this
      exact Bool.noConfusion this
    · have := h.fills_counted
      simp only [ha, if_true] at this ⊢; omega

/-- Clearing one valid bit keeps a cache sound (R139). -/
theorem Cache.Sound.clearValid {c : Cache} (h : c.Sound) {row way : Nat} (hr : row < c.rows) (hw : way < c.assoc) :
    (c.clearValid row way).Sound := by
  have hent : ∀ r w, w < c.assoc → (c.clearValid row way).entry r w
      = if r = row ∧ w = way then { c.entry row way with valid := false } else c.entry r w := by
    intro r w hw'
    split
    · rename_i he
      rw [he.1, he.2]
      exact c.entry_withEntry_self h.entries_wf _ _ _
    · rename_i he
      exact c.entry_withEntry_ne _ hw hw' he
  refine { assoc_pow := h.assoc_pow, block_pow := h.block_pow, rows_pow := h.rows_pow, geometry := h.geometry
           entries_wf := Memory.wf_write _ h.entries_wf _ _, entries_inside := ?_, tags_distinct := ?_
           tags_narrow := ?_, repl_sound := h.repl_sound, fills_counted := h.fills_counted }
  · intro e he
    rcases Memory.mem_write _ _ _ _ he with he | ⟨rfl, -⟩
    · exact h.entries_inside e he
    · exact c.slot_lt hr hw
  · intro r w1 w2 hr' hw1 hw2
    rw [hent r w1 hw1, hent r w2 hw2]
    by_cases c1 : r = row ∧ w1 = way
    · simp [if_pos c1]
    · by_cases c2 : r = row ∧ w2 = way
      · simp [if_pos c2]
      · simp only [if_neg c1, if_neg c2]
        exact h.tags_distinct r w1 w2 hr' hw1 hw2
  · intro r w hr' hw'
    rw [hent r w hw']
    split
    · exact h.tags_narrow row way hr hw
    · exact h.tags_narrow r w hr' hw'

/-- `invalidate_block` keeps a cache sound (R139). -/
theorem Cache.Sound.invalidateBlock {c : Cache} (h : c.Sound) (row way : Nat) : (c.invalidateBlock row way).Sound := by
  rcases c.invalidateBlock_cases row way with ⟨-, hr, hw, e⟩ | ⟨-, e⟩ <;> rw [e]
  · exact h.clearValid hr hw
  · exact h

/-- `invalidate_all` keeps a cache sound (R140). -/
theorem Cache.Sound.invalidateAll {c : Cache} (h : c.Sound) : c.invalidateAll.Sound := by
  rcases c.invalidateAll_cases with ⟨-, e⟩ | ⟨-, e⟩ <;> rw [e]
  · have hent := c.entry_clearAllValid h.entries_wf
    refine { assoc_pow := h.assoc_pow, block_pow := h.block_pow, rows_pow := h.rows_pow, geometry := h.geometry
             entries_wf := Memory.wf_map _ _ h.entries_wf, entries_inside := ?_, tags_distinct := ?_
             tags_narrow := ?_, repl_sound := h.repl_sound, fills_counted := h.fills_counted }
    · intro e he
      obtain ⟨x, hx, rfl⟩ := Memory.mem_map _ _ e he
      exact h.entries_inside x hx
    · intro r w1 w2 _ _ _
      rw [hent, hent]
      simp
    · intro r w hr hw
      rw [hent]
      exact h.tags_narrow r w hr hw
  · exact h

/-- `teardown` keeps a cache sound (R145). -/
theorem Cache.Sound.teardown {c : Cache} (h : c.Sound) : c.teardown.Sound :=
  h.withCounters _ _ h.fills_counted

/-! ### Construction (R130) -/

/-- The test of `init` is the rule's (R130). -/
theorem isPowerOfTwo_iff (n : Nat) : isPowerOfTwo n = true ↔ PowerOfTwo n := by
  unfold isPowerOfTwo PowerOfTwo
  constructor
  · intro h
    simp only [Bool.and_eq_true, bne_iff_ne, ne_eq, beq_iff_eq] at h
    exact ⟨n.log2, h.2.symm⟩
  · rintro ⟨k, rfl⟩
    simp

theorem PowerOfTwo.log2 {n : Nat} (h : PowerOfTwo n) : n = 2 ^ n.log2 := by
  obtain ⟨k, rfl⟩ := h
  simp

/-- The preconditions of `init` (R130). -/
theorem configValid_iff (cfg : CacheConfig) : configValid cfg = true ↔ GoodConfig cfg := by
  simp only [configValid, GoodConfig, Bool.and_eq_true, isPowerOfTwo_iff, beq_iff_eq, and_assoc, Nat.dvd_iff_mod_eq_zero]

/-- `init` succeeds exactly on a good configuration (R130, R351). -/
theorem Cache.init_eq_none (cfg : CacheConfig) (seed : Word) : Cache.init cfg seed = none ↔ ¬GoodConfig cfg := by
  rw [← configValid_iff]
  unfold Cache.init
  split <;> simp_all

/-- What `init` makes is sound (R26, R130). -/
theorem Cache.init_sound {cfg : CacheConfig} {seed : Word} {c : Cache} (h : Cache.init cfg seed = some c) :
    c.Sound := by
  unfold Cache.init at h
  split at h
  · rename_i hv
    obtain ⟨hs, ha, hb, hd⟩ := (configValid_iff cfg).1 hv
    obtain ⟨a, hsz⟩ := hs
    obtain ⟨n, hn⟩ := hd
    have hapos : 0 < cfg.assoc * cfg.block := by
      obtain ⟨x, hx⟩ := ha; obtain ⟨y, hy⟩ := hb; rw [hx, hy]; positivity
    have hrows : cfg.size / (cfg.assoc * cfg.block) = n := by rw [hn]; exact Nat.mul_div_cancel_left n hapos
    have hnpow : PowerOfTwo n := by
      have : n ∣ 2 ^ a := hsz ▸ hn ▸ Dvd.intro_left _ rfl
      obtain ⟨k, -, hk⟩ := (Nat.dvd_prime_pow Nat.prime_two).1 this
      exact ⟨k, hk⟩
    obtain rfl := (Option.some.inj h).symm
    refine { assoc_pow := ha, block_pow := hb.log2, rows_pow := ?_, geometry := ?_, entries_wf := rfl
             entries_inside := by simp, tags_distinct := ?_, tags_narrow := ?_, repl_sound := ?_, fills_counted := ?_ }
    · simp only [hrows]; exact hnpow.log2
    · simp only [hrows]; rw [hn]; ring
    · intro r w1 w2 _ _ _ hv; simp [Cache.entry, Entry.unlisted] at hv
    · intro r w _ _; simp [Cache.entry, Entry.unlisted]
    · cases hp : cfg.repl <;> simp [ReplState.initial, ReplState.Sound]
    · simp [Counters.zero]
  · simp at h

end Sys2Proof.Machine
end

