-- ==== Sys2Proof/Laws/Block.lean ====
section
/-! SUPPORT. The hierarchy, the driver and the injector (spec 41, 44, 45, 70): what each operation can do, said once. -/

namespace Sys2Proof.Machine

/-! ### The hierarchy (R172 to R174) -/

/-- What `icache_load` does to the block. -/
theorem Block.icacheLoad_block (b : Block) (addr : Word) :
    (b.icacheLoad addr).2 =
      { b with
        icache := (b.icache.load addr).2
        l2 := if (b.icache.load addr).1 = .miss then (b.l2.load addr).2 else b.l2 } := by
  unfold Block.icacheLoad
  cases h : (b.icache.load addr).1 <;> simp [h, Block.l2Load]

/-- What `dcache_load` does to the block. -/
theorem Block.dcacheLoad_block (b : Block) (addr : Word) :
    (b.dcacheLoad addr).2 =
      { b with
        dcache := (b.dcache.load addr).2
        l2 := if (b.dcache.load addr).1 = .miss then (b.l2.load addr).2 else b.l2 } := by
  unfold Block.dcacheLoad
  cases h : (b.dcache.load addr).1 <;> simp [h, Block.l2Load]

/-- What `dcache_store` does to the block. -/
theorem Block.dcacheStore_block (b : Block) (addr : Word) :
    (b.dcacheStore addr).2 =
      { b with
        dcache := (b.dcache.store addr).2
        l2 := if (b.dcache.store addr).1 = .miss then (b.l2.store addr).2 else b.l2 } := by
  unfold Block.dcacheStore
  cases h : (b.dcache.store addr).1 <;> simp [h, Block.l2Store]

/-! ### The injector (R331, R333) -/

/-- What `injector_notify` does: nothing, or it fires. -/
theorem Block.injectorNotify_cases (b : Block) :
    b.injectorNotify = (b, [])
    ∨ ∃ p, b.injState = .armed ∧ b.plan = some p ∧ p.sleepCycles ≤ b.insnCount ∧
        b.injectorNotify = ({ b with injState := .fired }, [b.injectionReport p]) := by
  unfold Block.injectorNotify Block.armedPlan
  cases hi : b.injState <;> cases hp : b.plan <;> simp
  rename_i p
  by_cases h : p.sleepCycles ≤ b.insnCount
  · simp [h]
  · simp [h, Nat.lt_of_not_le h]

/-- The injection report as the statements write it (R333 to R335). -/
theorem Block.injectionReport_eq (b : Block) (p : Plan) : b.injectionReport p = reportOf b p := by
  simp only [Block.injectionReport, reportOf, Cache.getAddr, Cache.isBlockValid, Cache.inRange, Cache.tagShift,
    Cache.rowShift, Config.wordBytes, Nat.mul_comm, Bool.and_assoc]

/-- What `LoadPlan` does: it is lost, it stores the plan, or it is reported invalid. -/
theorem Block.loadPlan_cases (b : Block) (n : Nat) (name : CacheName) (row way word : Nat) :
    (b.injState = .fired ∧ b.loadPlan n name row way word = (b, []))
    ∨ (b.injState = .armed ∧ (b.cache (planTarget name)).validateInjection row way word = .ok ∧
        b.loadPlan n name row way word =
          ({ b with plan := some { sleepCycles := n, target := planTarget name, row := row, way := way
                                   wordInBlock := word } }, []))
    ∨ (b.injState = .armed ∧ (b.cache (planTarget name)).validateInjection row way word ≠ .ok ∧
        b.loadPlan n name row way word =
          (b, [.invalidInjection ((b.cache (planTarget name)).validateInjection row way word)])) := by
  unfold Block.loadPlan
  cases b.injState <;> cases hv : (b.cache (planTarget name)).validateInjection row way word <;> simp

/-- When a plan validates (R143). -/
theorem Cache.validateInjection_ok (c : Cache) (row way word : Nat) :
    c.validateInjection row way word = .ok ↔
      c.live = true ∧ row < c.rows ∧ way < c.assoc ∧ word < c.blockSize / 4 := by
  unfold Cache.validateInjection Cache.inRange Config.wordBytes
  cases c.live <;> simp [and_assoc]

/-! ### The driver (R301 to R305) -/

theorem Block.inText_iff (b : Block) (a : Word) : b.inText a = true ↔ InText b a := by
  simp [Block.inText, InText, BitVec.ule, BitVec.ult]

/-- The fetch part of InsnExec as the statements write it (R301, R302). -/
theorem Block.fetch_eq (b : Block) (v : Word) : b.fetch v = fetchEffect b v := by
  unfold Block.fetch fetchEffect
  by_cases h : InText b v
  · rw [if_pos ((b.inText_iff v).2 h), if_pos h]
    have hc : (Block.icacheLoad { b with insnCount := b.insnCount + 1 } v).2 = countedFetch b v := by
      rw [Block.icacheLoad_block]; rfl
    rw [hc]
    unfold Block.injectorNotify Block.armedPlan
    have h1 : (countedFetch b v).injState = b.injState := rfl
    have h2 : (countedFetch b v).plan = b.plan := rfl
    have h3 : (countedFetch b v).insnCount = b.insnCount + 1 := rfl
    rw [h1, h2, h3]
    cases hi : b.injState <;> cases hp : b.plan <;> simp only [Block.injectionReport_eq, h2, h3, hp]
  · rw [if_neg (fun hh => h ((b.inText_iff v).1 hh)), if_neg h]

/-- What the cache-control part does (R303, R304, R307). -/
theorem Block.cacheControl_cases (b : Block) (gpr : Vector Word 16) :
    (b.armEnable = true ∧ b.cur.cacheOp = .dcisw ∧
      b.cacheControl gpr = b.dcacheInvalidateBlock
        (dciswSet (gpr.get ⟨b.cur.transferReg.toNat, b.cur.transferReg.isLt⟩))
        (dciswWay (gpr.get ⟨b.cur.transferReg.toNat, b.cur.transferReg.isLt⟩)))
    ∨ (b.armEnable = true ∧ b.cur.cacheOp = .iciallu ∧ b.cacheControl gpr = b.icacheInvalidateAll)
    ∨ ((b.armEnable = false ∨ b.cur.cacheOp = .noOp) ∧ b.cacheControl gpr = b) := by
  unfold Block.cacheControl
  cases b.armEnable <;> cases b.cur.cacheOp <;> simp

/-- What a memory event does (R305). -/
theorem Block.memAccess_cases (b : Block) (v : Word) (dir : AccessDir) :
    ((b.cur.direction = .noDirection ∨ InText b v) ∧ b.memAccess v dir = b)
    ∨ (b.cur.direction ≠ .noDirection ∧ ¬InText b v ∧ dir = .write ∧
        b.memAccess v dir =
          { b with
            storeCount := b.storeCount + 1
            dcache := (b.dcache.store v).2
            l2 := if (b.dcache.store v).1 = .miss then (b.l2.store v).2 else b.l2 })
    ∨ (b.cur.direction ≠ .noDirection ∧ ¬InText b v ∧ dir = .read ∧
        b.memAccess v dir =
          { b with
            loadCount := b.loadCount + 1
            dcache := (b.dcache.load v).2
            l2 := if (b.dcache.load v).1 = .miss then (b.l2.load v).2 else b.l2 }) := by
  unfold Block.memAccess
  by_cases hd : b.cur.direction = .noDirection
  · simp [Classification.isMemoryOp, hd]
  · by_cases ht : InText b v
    · exact .inl ⟨.inr ht, by simp [(b.inText_iff v).2 ht]⟩
    · have : ¬b.inText v = true := fun hh => ht ((b.inText_iff v).1 hh)
      cases dir <;>
        simp [Classification.isMemoryOp, hd, this, ht, Block.dcacheStore_block, Block.dcacheLoad_block]

/-! ### Initialisation (R380) -/

/-- `BlockInit` fails exactly if one of the three configurations does (R178, R380). -/
theorem Block.init_eq_none (cfg : BlockConfig) :
    Block.init cfg = none ↔ ¬(GoodConfig cfg.icache ∧ GoodConfig cfg.dcache ∧ GoodConfig cfg.l2) := by
  have hi := Cache.init_eq_none cfg.icache cfg.seeds.icache
  have hd := Cache.init_eq_none cfg.dcache cfg.seeds.dcache
  have hl := Cache.init_eq_none cfg.l2 cfg.seeds.l2
  unfold Block.init
  cases h1 : Cache.init cfg.icache cfg.seeds.icache <;> cases h2 : Cache.init cfg.dcache cfg.seeds.dcache <;>
    cases h3 : Cache.init cfg.l2 cfg.seeds.l2 <;> simp_all

/-- What `BlockInit` builds (R380). -/
theorem Block.init_eq_some {cfg : BlockConfig} {b : Block} (h : Block.init cfg = some b) :
    ∃ i d l, Cache.init cfg.icache cfg.seeds.icache = some i ∧ Cache.init cfg.dcache cfg.seeds.dcache = some d ∧
      Cache.init cfg.l2 cfg.seeds.l2 = some l ∧
      b = { icache := i, dcache := d, l2 := l, seeds := cfg.seeds, insnCount := 0, loadCount := 0, storeCount := 0
            textStart := cfg.textStart, textEnd := cfg.textEnd, armEnable := cfg.armEnable
            cur := .notMem Classification.resetCond, injState := .armed, plan := none } := by
  unfold Block.init at h
  split at h
  · rename_i i d l hi hd hl
    exact ⟨i, d, l, hi, hd, hl, (Option.some.inj h).symm⟩
  · simp at h

/-! ### Soundness -/

theorem Classification.notMem_sound (cond : BitVec 4) : (Classification.notMem cond).Sound := ⟨rfl, rfl⟩

theorem recordOf_sound (id : Identifier) (f : Format) (cond : BitVec 4) (fields : Fields) :
    (recordOf id f cond fields).Sound := ⟨rfl, rfl⟩

theorem recordXls_sound (id : Identifier) (f : Xls) : (recordXls id f).Sound := by
  unfold recordXls; split <;> exact ⟨rfl, rfl⟩

/-- Every word's record is sound (R100, R105, R106). -/
theorem classify_sound (w : Word) : (classify w).Sound := by
  have regular : (classifyRegular w).Sound := by
    unfold classifyRegular; dsimp only; split <;> exact recordOf_sound _ _ _ _
  have extra : (classifyExtra w).Sound := recordXls_sound _ _
  have notMem : (classifyNotMem w).Sound := Classification.notMem_sound _
  have sync : (classifySync w).Sound := by
    unfold classifySync; split
    · exact recordOf_sound _ _ _ _
    · exact notMem
  have coproc : (classifyCoproc w).Sound := by
    unfold classifyCoproc
    repeat' first | exact notMem | exact recordOf_sound _ _ _ _ | split
  unfold classify
  dsimp only
  repeat' first | exact regular | exact extra | exact notMem | exact sync | exact coproc | exact recordOf_sound _ _ _ _ | split

/-- A sound block with one instance replaced by a sound one. -/
theorem Block.Sound.withCache {b : Block} (h : b.Sound) (c : CacheId) {v : Cache} (hv : v.Sound) :
    (b.withCache c v).Sound := by
  obtain ⟨hi, hd, hl, hc⟩ := h
  cases c
  · exact ⟨hv, hd, hl, hc⟩
  · exact ⟨hi, hv, hl, hc⟩
  · exact ⟨hi, hd, hv, hc⟩

theorem Block.Sound.cache {b : Block} (h : b.Sound) (c : CacheId) : (b.cache c).Sound := by
  cases c
  · exact h.icache_sound
  · exact h.dcache_sound
  · exact h.l2_sound

/-- The fetch keeps a block sound. -/
theorem Block.Sound.fetch {b : Block} (h : b.Sound) (v : Word) : (b.fetch v).1.Sound := by
  rw [Block.fetch_eq]
  have hc : (countedFetch b v).Sound := by
    refine ⟨h.icache_sound.load v, h.dcache_sound, ?_, h.cur_sound⟩
    simp only [countedFetch]
    split
    · exact h.l2_sound.load v
    · exact h.l2_sound
  unfold fetchEffect
  split
  · split
    · split
      · exact ⟨hc.icache_sound, hc.dcache_sound, hc.l2_sound, hc.cur_sound⟩
      · exact hc
    · exact hc
  · exact h

/-- The cache-control part keeps a block sound. -/
theorem Block.Sound.cacheControl {b : Block} (h : b.Sound) (gpr : Vector Word 16) : (b.cacheControl gpr).Sound := by
  rcases b.cacheControl_cases gpr with ⟨-, -, e⟩ | ⟨-, -, e⟩ | ⟨-, e⟩ <;> rw [e]
  · exact ⟨h.icache_sound, h.dcache_sound.invalidateBlock _ _, h.l2_sound, h.cur_sound⟩
  · exact ⟨h.icache_sound.invalidateAll, h.dcache_sound, h.l2_sound, h.cur_sound⟩
  · exact h

/-- A word with a sound record keeps a block sound. -/
theorem Block.Sound.runWord {b : Block} (h : b.Sound) {r : Classification} (hr : r.Sound) (v : Word)
    (gpr : Vector Word 16) : (b.runWord r v gpr).1.Sound :=
  Block.Sound.cacheControl (Block.Sound.fetch (b := { b with cur := r }) ⟨h.icache_sound, h.dcache_sound, h.l2_sound, hr⟩ v) gpr

/-- Bytes that are not a word keep a block sound. -/
theorem Block.Sound.wrongSize {b : Block} (h : b.Sound) (cond : BitVec 4) (v : Word) : (b.wrongSize cond v).1.Sound :=
  Block.Sound.fetch (b := { b with cur := .notMem cond })
    ⟨h.icache_sound, h.dcache_sound, h.l2_sound, Classification.notMem_sound cond⟩ v

/-- A memory event keeps a block sound. -/
theorem Block.Sound.memAccess {b : Block} (h : b.Sound) (v : Word) (dir : AccessDir) : (b.memAccess v dir).Sound := by
  rcases b.memAccess_cases v dir with ⟨-, e⟩ | ⟨-, -, -, e⟩ | ⟨-, -, -, e⟩ <;> rw [e]
  · exact h
  · refine ⟨h.icache_sound, h.dcache_sound.store v, ?_, h.cur_sound⟩
    simp only
    split
    · exact h.l2_sound.store v
    · exact h.l2_sound
  · refine ⟨h.icache_sound, h.dcache_sound.load v, ?_, h.cur_sound⟩
    simp only
    split
    · exact h.l2_sound.load v
    · exact h.l2_sound

/-- `LoadPlan` keeps a block sound. -/
theorem Block.Sound.loadPlan {b : Block} (h : b.Sound) (n : Nat) (name : CacheName) (row way word : Nat) :
    (b.loadPlan n name row way word).1.Sound := by
  rcases b.loadPlan_cases n name row way word with ⟨-, e⟩ | ⟨-, -, e⟩ | ⟨-, -, e⟩ <;> rw [e]
  · exact h
  · exact ⟨h.icache_sound, h.dcache_sound, h.l2_sound, h.cur_sound⟩
  · exact h

/-- `Teardown` keeps a block sound. -/
theorem Block.Sound.teardown {b : Block} (h : b.Sound) : b.teardown.Sound :=
  ⟨h.icache_sound.teardown, h.dcache_sound.teardown, h.l2_sound.teardown, h.cur_sound⟩

/-- What `BlockInit` builds is sound. -/
theorem Block.init_sound {cfg : BlockConfig} {b : Block} (h : Block.init cfg = some b) : b.Sound := by
  obtain ⟨i, d, l, hi, hd, hl, rfl⟩ := Block.init_eq_some h
  exact ⟨Cache.init_sound hi, Cache.init_sound hd, Cache.init_sound hl, Classification.notMem_sound _⟩

end Sys2Proof.Machine
end

