-- ==== Sys2Proof/Laws/Encoding.lean ====
section
/-! SUPPORT. The words of the formats (spec R94 to R99): the bits the decoder tests, and that reading the fields of a
written word gives the fields back. -/

namespace Sys2Proof

@[simp] theorem LsImm.word_top (byte load : Bool) (f : LsImm) : (f.word byte load).extractLsb' 25 3 = 0b010#3 := by
  unfold LsImm.word
  apply BitVec.eq_of_getLsbD_eq
  intro i hi
  simp only [-Nat.reduceAdd, BitVec.getLsbD_append, BitVec.getLsbD_extractLsb']
  interval_cases i <;> simp

@[simp] theorem LsImm.word_byte (byte load : Bool) (f : LsImm) : (f.word byte load).getLsbD 22 = byte := by
  unfold LsImm.word
  simp only [-Nat.reduceAdd, BitVec.getLsbD_append]
  simp

@[simp] theorem LsImm.word_load (byte load : Bool) (f : LsImm) : (f.word byte load).getLsbD 20 = load := by
  unfold LsImm.word
  simp only [-Nat.reduceAdd, BitVec.getLsbD_append]
  simp

/-- Reading the fields of a written word. -/
@[simp] theorem LsImm.ofWord_word (byte load : Bool) (f : LsImm) : LsImm.ofWord (f.word byte load) = f := by
  obtain ⟨x0, x1, x2, x3, x4, x5, x6⟩ := f
  simp only [LsImm.ofWord, LsImm.word, LsImm.mk.injEq]
  refine ⟨?_, ?_, ?_, ?_, ?_, ?_, ?_⟩ <;> first
    | (simp only [-Nat.reduceAdd, BitVec.getLsbD_append]; simp)
    | (apply BitVec.eq_of_getLsbD_eq; intro i hi
       simp only [-Nat.reduceAdd, BitVec.getLsbD_append, BitVec.getLsbD_extractLsb']
       interval_cases i <;> simp)

@[simp] theorem LsReg.word_top (byte load : Bool) (f : LsReg) : (f.word byte load).extractLsb' 25 3 = 0b011#3 := by
  unfold LsReg.word
  apply BitVec.eq_of_getLsbD_eq
  intro i hi
  simp only [-Nat.reduceAdd, BitVec.getLsbD_append, BitVec.getLsbD_extractLsb']
  interval_cases i <;> simp

@[simp] theorem LsReg.word_byte (byte load : Bool) (f : LsReg) : (f.word byte load).getLsbD 22 = byte := by
  unfold LsReg.word
  simp only [-Nat.reduceAdd, BitVec.getLsbD_append]
  simp

@[simp] theorem LsReg.word_load (byte load : Bool) (f : LsReg) : (f.word byte load).getLsbD 20 = load := by
  unfold LsReg.word
  simp only [-Nat.reduceAdd, BitVec.getLsbD_append]
  simp

@[simp] theorem LsReg.word_bit4 (byte load : Bool) (f : LsReg) : (f.word byte load).getLsbD 4 = false := by
  unfold LsReg.word
  simp only [-Nat.reduceAdd, BitVec.getLsbD_append]
  simp

/-- Reading the fields of a written word. -/
@[simp] theorem LsReg.ofWord_word (byte load : Bool) (f : LsReg) : LsReg.ofWord (f.word byte load) = f := by
  obtain ⟨x0, x1, x2, x3, x4, x5, x6, x7, x8⟩ := f
  simp only [LsReg.ofWord, LsReg.word, LsReg.mk.injEq]
  refine ⟨?_, ?_, ?_, ?_, ?_, ?_, ?_, ?_, ?_⟩ <;> first
    | (simp only [-Nat.reduceAdd, BitVec.getLsbD_append]; simp)
    | (apply BitVec.eq_of_getLsbD_eq; intro i hi
       simp only [-Nat.reduceAdd, BitVec.getLsbD_append, BitVec.getLsbD_extractLsb']
       interval_cases i <;> simp)

@[simp] theorem Xls.word_top (op2 : BitVec 2) (load : Bool) (f : Xls) : (f.word op2 load).extractLsb' 25 3 = 0b000#3 := by
  unfold Xls.word
  apply BitVec.eq_of_getLsbD_eq
  intro i hi
  simp only [-Nat.reduceAdd, BitVec.getLsbD_append, BitVec.getLsbD_extractLsb']
  interval_cases i <;> simp

@[simp] theorem Xls.word_bit7 (op2 : BitVec 2) (load : Bool) (f : Xls) : (f.word op2 load).getLsbD 7 = true := by
  unfold Xls.word
  simp only [-Nat.reduceAdd, BitVec.getLsbD_append]
  simp

@[simp] theorem Xls.word_bit4 (op2 : BitVec 2) (load : Bool) (f : Xls) : (f.word op2 load).getLsbD 4 = true := by
  unfold Xls.word
  simp only [-Nat.reduceAdd, BitVec.getLsbD_append]
  simp

@[simp] theorem Xls.word_op2 (op2 : BitVec 2) (load : Bool) (f : Xls) : (f.word op2 load).extractLsb' 5 2 = op2 := by
  unfold Xls.word
  apply BitVec.eq_of_getLsbD_eq
  intro i hi
  simp only [-Nat.reduceAdd, BitVec.getLsbD_append, BitVec.getLsbD_extractLsb']
  interval_cases i <;> simp

@[simp] theorem Xls.word_load (op2 : BitVec 2) (load : Bool) (f : Xls) : (f.word op2 load).getLsbD 20 = load := by
  unfold Xls.word
  simp only [-Nat.reduceAdd, BitVec.getLsbD_append]
  simp

/-- Reading the fields of a written word. -/
@[simp] theorem Xls.ofWord_word (op2 : BitVec 2) (load : Bool) (f : Xls) : Xls.ofWord (f.word op2 load) = f := by
  obtain ⟨x0, x1, x2, x3, x4, x5, x6, x7, x8⟩ := f
  simp only [Xls.ofWord, Xls.word, Xls.mk.injEq]
  refine ⟨?_, ?_, ?_, ?_, ?_, ?_, ?_, ?_, ?_⟩ <;> first
    | (simp only [-Nat.reduceAdd, BitVec.getLsbD_append]; simp)
    | (apply BitVec.eq_of_getLsbD_eq; intro i hi
       simp only [-Nat.reduceAdd, BitVec.getLsbD_append, BitVec.getLsbD_extractLsb']
       interval_cases i <;> simp)

@[simp] theorem Sync.word_top (op : BitVec 4) (f : Sync) : (f.word op).extractLsb' 25 3 = 0b000#3 := by
  unfold Sync.word
  apply BitVec.eq_of_getLsbD_eq
  intro i hi
  simp only [-Nat.reduceAdd, BitVec.getLsbD_append, BitVec.getLsbD_extractLsb']
  interval_cases i <;> simp

@[simp] theorem Sync.word_bit7 (op : BitVec 4) (f : Sync) : (f.word op).getLsbD 7 = true := by
  unfold Sync.word
  simp only [-Nat.reduceAdd, BitVec.getLsbD_append]
  simp

@[simp] theorem Sync.word_bit4 (op : BitVec 4) (f : Sync) : (f.word op).getLsbD 4 = true := by
  unfold Sync.word
  simp only [-Nat.reduceAdd, BitVec.getLsbD_append]
  simp

@[simp] theorem Sync.word_op2 (op : BitVec 4) (f : Sync) : (f.word op).extractLsb' 5 2 = 0b00#2 := by
  unfold Sync.word
  apply BitVec.eq_of_getLsbD_eq
  intro i hi
  simp only [-Nat.reduceAdd, BitVec.getLsbD_append, BitVec.getLsbD_extractLsb']
  interval_cases i <;> simp

@[simp] theorem Sync.word_bit24 (op : BitVec 4) (f : Sync) : (f.word op).getLsbD 24 = true := by
  unfold Sync.word
  simp only [-Nat.reduceAdd, BitVec.getLsbD_append]
  simp

@[simp] theorem Sync.word_op (op : BitVec 4) (f : Sync) : (f.word op).extractLsb' 20 4 = op := by
  unfold Sync.word
  apply BitVec.eq_of_getLsbD_eq
  intro i hi
  simp only [-Nat.reduceAdd, BitVec.getLsbD_append, BitVec.getLsbD_extractLsb']
  interval_cases i <;> simp

/-- Reading the fields of a written word. -/
@[simp] theorem Sync.ofWord_word (op : BitVec 4) (f : Sync) : Sync.ofWord (f.word op) = f := by
  obtain ⟨x0, x1, x2, x3, x4⟩ := f
  simp only [Sync.ofWord, Sync.word, Sync.mk.injEq]
  refine ⟨?_, ?_, ?_, ?_, ?_⟩ <;> first
    | (apply BitVec.eq_of_getLsbD_eq; intro i hi
       simp only [-Nat.reduceAdd, BitVec.getLsbD_append, BitVec.getLsbD_extractLsb']
       interval_cases i <;> simp)

@[simp] theorem Blk.word_top (load : Bool) (f : Blk) : (f.word load).extractLsb' 25 3 = 0b100#3 := by
  unfold Blk.word
  apply BitVec.eq_of_getLsbD_eq
  intro i hi
  simp only [-Nat.reduceAdd, BitVec.getLsbD_append, BitVec.getLsbD_extractLsb']
  interval_cases i <;> simp

@[simp] theorem Blk.word_load (load : Bool) (f : Blk) : (f.word load).getLsbD 20 = load := by
  unfold Blk.word
  simp only [-Nat.reduceAdd, BitVec.getLsbD_append]
  simp

/-- Reading the fields of a written word. -/
@[simp] theorem Blk.ofWord_word (load : Bool) (f : Blk) : Blk.ofWord (f.word load) = f := by
  obtain ⟨x0, x1, x2, x3, x4, x5, x6⟩ := f
  simp only [Blk.ofWord, Blk.word, Blk.mk.injEq]
  refine ⟨?_, ?_, ?_, ?_, ?_, ?_, ?_⟩ <;> first
    | (simp only [-Nat.reduceAdd, BitVec.getLsbD_append]; simp)
    | (apply BitVec.eq_of_getLsbD_eq; intro i hi
       simp only [-Nat.reduceAdd, BitVec.getLsbD_append, BitVec.getLsbD_extractLsb']
       interval_cases i <;> simp)

@[simp] theorem CpLs.word_top (load : Bool) (f : CpLs) : (f.word load).extractLsb' 25 3 = 0b110#3 := by
  unfold CpLs.word
  apply BitVec.eq_of_getLsbD_eq
  intro i hi
  simp only [-Nat.reduceAdd, BitVec.getLsbD_append, BitVec.getLsbD_extractLsb']
  interval_cases i <;> simp

@[simp] theorem CpLs.word_coproc (load : Bool) (f : CpLs) : (f.word load).extractLsb' 8 4 = f.coproc := by
  unfold CpLs.word
  apply BitVec.eq_of_getLsbD_eq
  intro i hi
  simp only [-Nat.reduceAdd, BitVec.getLsbD_append, BitVec.getLsbD_extractLsb']
  interval_cases i <;> simp

@[simp] theorem CpLs.word_bit25 (load : Bool) (f : CpLs) : (f.word load).getLsbD 25 = false := by
  unfold CpLs.word
  simp only [-Nat.reduceAdd, BitVec.getLsbD_append]
  simp

@[simp] theorem CpLs.word_load (load : Bool) (f : CpLs) : (f.word load).getLsbD 20 = load := by
  unfold CpLs.word
  simp only [-Nat.reduceAdd, BitVec.getLsbD_append]
  simp

/-- Reading the fields of a written word. -/
@[simp] theorem CpLs.ofWord_word (load : Bool) (f : CpLs) : CpLs.ofWord (f.word load) = f := by
  obtain ⟨x0, x1, x2, x3, x4, x5, x6, x7, x8⟩ := f
  simp only [CpLs.ofWord, CpLs.word, CpLs.mk.injEq]
  refine ⟨?_, ?_, ?_, ?_, ?_, ?_, ?_, ?_, ?_⟩ <;> first
    | (simp only [-Nat.reduceAdd, BitVec.getLsbD_append]; simp)
    | (apply BitVec.eq_of_getLsbD_eq; intro i hi
       simp only [-Nat.reduceAdd, BitVec.getLsbD_append, BitVec.getLsbD_extractLsb']
       interval_cases i <;> simp)

@[simp] theorem CpRt.word_top (load : Bool) (f : CpRt) : (f.word load).extractLsb' 25 3 = 0b111#3 := by
  unfold CpRt.word
  apply BitVec.eq_of_getLsbD_eq
  intro i hi
  simp only [-Nat.reduceAdd, BitVec.getLsbD_append, BitVec.getLsbD_extractLsb']
  interval_cases i <;> simp

@[simp] theorem CpRt.word_coproc (load : Bool) (f : CpRt) : (f.word load).extractLsb' 8 4 = f.coproc := by
  unfold CpRt.word
  apply BitVec.eq_of_getLsbD_eq
  intro i hi
  simp only [-Nat.reduceAdd, BitVec.getLsbD_append, BitVec.getLsbD_extractLsb']
  interval_cases i <;> simp

@[simp] theorem CpRt.word_bit25 (load : Bool) (f : CpRt) : (f.word load).getLsbD 25 = true := by
  unfold CpRt.word
  simp only [-Nat.reduceAdd, BitVec.getLsbD_append]
  simp

@[simp] theorem CpRt.word_bit24 (load : Bool) (f : CpRt) : (f.word load).getLsbD 24 = false := by
  unfold CpRt.word
  simp only [-Nat.reduceAdd, BitVec.getLsbD_append]
  simp

@[simp] theorem CpRt.word_bit4 (load : Bool) (f : CpRt) : (f.word load).getLsbD 4 = true := by
  unfold CpRt.word
  simp only [-Nat.reduceAdd, BitVec.getLsbD_append]
  simp

@[simp] theorem CpRt.word_load (load : Bool) (f : CpRt) : (f.word load).getLsbD 20 = load := by
  unfold CpRt.word
  simp only [-Nat.reduceAdd, BitVec.getLsbD_append]
  simp

/-- Reading the fields of a written word. -/
@[simp] theorem CpRt.ofWord_word (load : Bool) (f : CpRt) : CpRt.ofWord (f.word load) = f := by
  obtain ⟨x0, x1, x2, x3, x4, x5, x6⟩ := f
  simp only [CpRt.ofWord, CpRt.word, CpRt.mk.injEq]
  refine ⟨?_, ?_, ?_, ?_, ?_, ?_, ?_⟩ <;> first
    | (apply BitVec.eq_of_getLsbD_eq; intro i hi
       simp only [-Nat.reduceAdd, BitVec.getLsbD_append, BitVec.getLsbD_extractLsb']
       interval_cases i <;> simp)

/-- Reading the fields of a written word. -/
@[simp] theorem NotMem.ofWord_word (f : NotMem) : NotMem.ofWord (f.word) = f := by
  obtain ⟨x0, x1⟩ := f
  simp only [NotMem.ofWord, NotMem.word, NotMem.mk.injEq]
  refine ⟨?_, ?_⟩ <;> first
    | (apply BitVec.eq_of_getLsbD_eq; intro i hi
       simp only [-Nat.reduceAdd, BitVec.getLsbD_append, BitVec.getLsbD_extractLsb']
       interval_cases i <;> simp)

/-- A bit of the word of an instruction that is not a memory operation. -/
theorem NotMem.word_getLsbD (f : NotMem) (n : Nat) (h : n < 28) : f.word.getLsbD n = f.body.getLsbD n := by
  unfold NotMem.word
  simp only [-Nat.reduceAdd, BitVec.getLsbD_append, h, if_true]

/-- A field of the word of an instruction that is not a memory operation. -/
theorem NotMem.word_field (f : NotMem) (start len : Nat) (h : start + len ≤ 28) :
    f.word.extractLsb' start len = f.body.extractLsb' start len := by
  apply BitVec.eq_of_getLsbD_eq
  intro i hi
  simp only [BitVec.getLsbD_extractLsb', hi, decide_true, Bool.true_and]
  exact NotMem.word_getLsbD f _ (by omega)

/-- Writing the fields of a word of this format gives the word back. -/
theorem LsImm.word_ofWord (w : Word) (h0 : w.extractLsb' 25 3 = 0b010#3) :
    (LsImm.ofWord w).word (w.getLsbD 22) (w.getLsbD 20) = w := by
  have b25 : w.getLsbD 25 = false := by simpa using congrArg (·.getLsbD 0) h0
  have b26 : w.getLsbD 26 = true := by simpa using congrArg (·.getLsbD 1) h0
  have b27 : w.getLsbD 27 = false := by simpa using congrArg (·.getLsbD 2) h0
  apply BitVec.eq_of_getLsbD_eq
  intro i hi
  simp only [LsImm.word, LsImm.ofWord, -Nat.reduceAdd, BitVec.getLsbD_append, BitVec.getLsbD_extractLsb']
  interval_cases i <;> simp_all

/-- Writing the fields of a word of this format gives the word back. -/
theorem LsReg.word_ofWord (w : Word) (h0 : w.extractLsb' 25 3 = 0b011#3) (h1 : w.getLsbD 4 = false) :
    (LsReg.ofWord w).word (w.getLsbD 22) (w.getLsbD 20) = w := by
  have b25 : w.getLsbD 25 = true := by simpa using congrArg (·.getLsbD 0) h0
  have b26 : w.getLsbD 26 = true := by simpa using congrArg (·.getLsbD 1) h0
  have b27 : w.getLsbD 27 = false := by simpa using congrArg (·.getLsbD 2) h0
  apply BitVec.eq_of_getLsbD_eq
  intro i hi
  simp only [LsReg.word, LsReg.ofWord, -Nat.reduceAdd, BitVec.getLsbD_append, BitVec.getLsbD_extractLsb']
  interval_cases i <;> simp_all

/-- Writing the fields of a word of this format gives the word back. -/
theorem Xls.word_ofWord (w : Word) (h0 : w.extractLsb' 25 3 = 0b000#3) (h1 : w.getLsbD 7 = true) (h2 : w.getLsbD 4 = true) :
    (Xls.ofWord w).word (w.extractLsb' 5 2) (w.getLsbD 20) = w := by
  have b25 : w.getLsbD 25 = false := by simpa using congrArg (·.getLsbD 0) h0
  have b26 : w.getLsbD 26 = false := by simpa using congrArg (·.getLsbD 1) h0
  have b27 : w.getLsbD 27 = false := by simpa using congrArg (·.getLsbD 2) h0
  apply BitVec.eq_of_getLsbD_eq
  intro i hi
  simp only [Xls.word, Xls.ofWord, -Nat.reduceAdd, BitVec.getLsbD_append, BitVec.getLsbD_extractLsb']
  interval_cases i <;> simp_all

/-- Writing the fields of a word of this format gives the word back. -/
theorem Sync.word_ofWord (w : Word) (h0 : w.extractLsb' 24 4 = 0b0001#4) (h1 : w.extractLsb' 4 4 = 0b1001#4) :
    (Sync.ofWord w).word (w.extractLsb' 20 4) = w := by
  have b24 : w.getLsbD 24 = true := by simpa using congrArg (·.getLsbD 0) h0
  have b25 : w.getLsbD 25 = false := by simpa using congrArg (·.getLsbD 1) h0
  have b26 : w.getLsbD 26 = false := by simpa using congrArg (·.getLsbD 2) h0
  have b27 : w.getLsbD 27 = false := by simpa using congrArg (·.getLsbD 3) h0
  have b4 : w.getLsbD 4 = true := by simpa using congrArg (·.getLsbD 0) h1
  have b5 : w.getLsbD 5 = false := by simpa using congrArg (·.getLsbD 1) h1
  have b6 : w.getLsbD 6 = false := by simpa using congrArg (·.getLsbD 2) h1
  have b7 : w.getLsbD 7 = true := by simpa using congrArg (·.getLsbD 3) h1
  apply BitVec.eq_of_getLsbD_eq
  intro i hi
  simp only [Sync.word, Sync.ofWord, -Nat.reduceAdd, BitVec.getLsbD_append, BitVec.getLsbD_extractLsb']
  interval_cases i <;> simp_all

/-- Writing the fields of a word of this format gives the word back. -/
theorem Blk.word_ofWord (w : Word) (h0 : w.extractLsb' 25 3 = 0b100#3) :
    (Blk.ofWord w).word (w.getLsbD 20) = w := by
  have b25 : w.getLsbD 25 = false := by simpa using congrArg (·.getLsbD 0) h0
  have b26 : w.getLsbD 26 = false := by simpa using congrArg (·.getLsbD 1) h0
  have b27 : w.getLsbD 27 = true := by simpa using congrArg (·.getLsbD 2) h0
  apply BitVec.eq_of_getLsbD_eq
  intro i hi
  simp only [Blk.word, Blk.ofWord, -Nat.reduceAdd, BitVec.getLsbD_append, BitVec.getLsbD_extractLsb']
  interval_cases i <;> simp_all

/-- Writing the fields of a word of this format gives the word back. -/
theorem CpLs.word_ofWord (w : Word) (h0 : w.extractLsb' 25 3 = 0b110#3) :
    (CpLs.ofWord w).word (w.getLsbD 20) = w := by
  have b25 : w.getLsbD 25 = false := by simpa using congrArg (·.getLsbD 0) h0
  have b26 : w.getLsbD 26 = true := by simpa using congrArg (·.getLsbD 1) h0
  have b27 : w.getLsbD 27 = true := by simpa using congrArg (·.getLsbD 2) h0
  apply BitVec.eq_of_getLsbD_eq
  intro i hi
  simp only [CpLs.word, CpLs.ofWord, -Nat.reduceAdd, BitVec.getLsbD_append, BitVec.getLsbD_extractLsb']
  interval_cases i <;> simp_all

/-- Writing the fields of a word of this format gives the word back. -/
theorem CpRt.word_ofWord (w : Word) (h0 : w.extractLsb' 24 4 = 0b1110#4) (h1 : w.getLsbD 4 = true) :
    (CpRt.ofWord w).word (w.getLsbD 20) = w := by
  have b24 : w.getLsbD 24 = false := by simpa using congrArg (·.getLsbD 0) h0
  have b25 : w.getLsbD 25 = true := by simpa using congrArg (·.getLsbD 1) h0
  have b26 : w.getLsbD 26 = true := by simpa using congrArg (·.getLsbD 2) h0
  have b27 : w.getLsbD 27 = true := by simpa using congrArg (·.getLsbD 3) h0
  apply BitVec.eq_of_getLsbD_eq
  intro i hi
  simp only [CpRt.word, CpRt.ofWord, -Nat.reduceAdd, BitVec.getLsbD_append, BitVec.getLsbD_extractLsb']
  interval_cases i <;> simp_all

/-- Writing the fields of a word of this format gives the word back. -/
theorem NotMem.word_ofWord (w : Word) :
    (NotMem.ofWord w).word = w := by
  apply BitVec.eq_of_getLsbD_eq
  intro i hi
  simp only [NotMem.word, NotMem.ofWord, -Nat.reduceAdd, BitVec.getLsbD_append, BitVec.getLsbD_extractLsb']
  interval_cases i <;> simp_all

end Sys2Proof
end

