-- ==== Sys2Proof/Laws/Exec.lean ====
section
/-! SUPPORT. Instructions and the step: how an outcome comes about, said once. -/

namespace Sys2Proof.Machine

/-! ### Acting on the machine -/

@[simp] theorem State.onBlock_some (s : State) (b : Block) (op : Block → Block × List Output) (h : s.block = some b) :
    s.onBlock op = .next { s with block := some (op b).1, outputs := s.outputs ++ (op b).2 } := by
  simp [State.onBlock, h]

@[simp] theorem State.onBlock_none (s : State) (op : Block → Block × List Output) (h : s.block = none) :
    s.onBlock op = .fault .noBlock := by
  simp [State.onBlock, h]

/-- An operation of the block answers a next state exactly where a block exists. -/
theorem State.onBlock_next {s t : State} {op : Block → Block × List Output} (h : s.onBlock op = .next t) :
    ∃ b, s.block = some b ∧ t = { s with block := some (op b).1, outputs := s.outputs ++ (op b).2 } := by
  unfold State.onBlock at h
  split at h
  · simp at h
  · rename_i b hb
    exact ⟨b, hb, by simpa using h.symm⟩

/-! ### Word rows -/

/-- The record that a word row puts into `cur` (R105); the commands and the events have none. -/
def wordRecord (i : Instr) : Option Classification :=
  match i with
  | .strtImm f => some (recordLsImm .strt f)
  | .strtReg f => some (recordLsReg .strt f)
  | .ldrtImm f => some (recordLsImm .ldrt f)
  | .ldrtReg f => some (recordLsReg .ldrt f)
  | .strbtImm f => some (recordLsImm .strbt f)
  | .strbtReg f => some (recordLsReg .strbt f)
  | .ldrbtImm f => some (recordLsImm .ldrbt f)
  | .ldrbtReg f => some (recordLsReg .ldrbt f)
  | .strReg f => some (recordLsReg .strReg f)
  | .strImm f => some (recordLsImm .strImm f)
  | .ldrReg f => some (recordLsReg .ldrReg f)
  | .ldrLit f => some (recordLsImm .ldrLit f)
  | .ldrImm f => some (recordLsImm .ldrImm f)
  | .strbReg f => some (recordLsReg .strbReg f)
  | .strbImm f => some (recordLsImm .strbImm f)
  | .ldrbReg f => some (recordLsReg .ldrbReg f)
  | .ldrbLit f => some (recordLsImm .ldrbLit f)
  | .ldrbImm f => some (recordLsImm .ldrbImm f)
  | .notMemMedia f => some (.notMem f.cond)
  | .swp f => some (recordSync .swp 0x0#4 f)
  | .swpb f => some (recordSync .swpb 0x4#4 f)
  | .strex f => some (recordSync .strex 0x8#4 f)
  | .ldrex f => some (recordSync .ldrex 0x9#4 f)
  | .strexd f => some (recordSync .strexd 0xA#4 f)
  | .ldrexd f => some (recordSync .ldrexd 0xB#4 f)
  | .strexb f => some (recordSync .strexb 0xC#4 f)
  | .ldrexb f => some (recordSync .ldrexb 0xD#4 f)
  | .strexh f => some (recordSync .strexh 0xE#4 f)
  | .ldrexh f => some (recordSync .ldrexh 0xF#4 f)
  | .notMemMultiply f => some (.notMem f.cond)
  | .strht f => some (recordXls .strht f)
  | .ldrht f => some (recordXls .ldrht f)
  | .ldrsbt f => some (recordXls .ldrsbt f)
  | .ldrsht f => some (recordXls .ldrsht f)
  | .strhReg f => some (recordXls .strhReg f)
  | .strhImm f => some (recordXls .strhImm f)
  | .ldrhReg f => some (recordXls .ldrhReg f)
  | .ldrhLit f => some (recordXls .ldrhLit f)
  | .ldrhImm f => some (recordXls .ldrhImm f)
  | .ldrdReg f => some (recordXls .ldrdReg f)
  | .ldrdLit f => some (recordXls .ldrdLit f)
  | .ldrdImm f => some (recordXls .ldrdImm f)
  | .ldrsbReg f => some (recordXls .ldrsbReg f)
  | .ldrsbLit f => some (recordXls .ldrsbLit f)
  | .ldrsbImm f => some (recordXls .ldrsbImm f)
  | .strdReg f => some (recordXls .strdReg f)
  | .strdImm f => some (recordXls .strdImm f)
  | .ldrshReg f => some (recordXls .ldrshReg f)
  | .ldrshLit f => some (recordXls .ldrshLit f)
  | .ldrshImm f => some (recordXls .ldrshImm f)
  | .notMemDataProc f => some (.notMem f.cond)
  | .stmUser f => some (recordBlk .stmUser f)
  | .ldmExret f => some (recordBlk .ldmExret f)
  | .ldmUser f => some (recordBlk .ldmUser f)
  | .popMult f => some (recordBlk .popMult f)
  | .pushMult f => some (recordBlk .pushMult f)
  | .stmda f => some (recordBlk .stmda f)
  | .ldmda f => some (recordBlk .ldmda f)
  | .stmia f => some (recordBlk .stmia f)
  | .ldmia f => some (recordBlk .ldmia f)
  | .stmdb f => some (recordBlk .stmdb f)
  | .ldmdb f => some (recordBlk .ldmdb f)
  | .stmib f => some (recordBlk .stmib f)
  | .ldmib f => some (recordBlk .ldmib f)
  | .notMemBranch f => some (.notMem f.cond)
  | .notMemFpCoproc f => some (.notMem f.cond)
  | .notMemCoprocHole f => some (.notMem f.cond)
  | .cpStr f => some (recordCpLs .cpStr f)
  | .cpLdLit f => some (recordCpLs .cpLdLit f)
  | .cpLdImm f => some (recordCpLs .cpLdImm f)
  | .dcisw f => some (recordCpRt .cpMcr .dcisw f.asDcisw)
  | .iciallu f => some (recordCpRt .cpMcr .iciallu f.asIciallu)
  | .cpMcr f => some (recordCpRt .cpMcr .noOp f)
  | .cpMrc f => some (recordCpRt .cpMrc .noOp f)
  | .notMemOther f => some (.notMem f.cond)
  | .init _ _ => none
  | .load _ _ => none
  | .store _ _ => none
  | .invalidateBlock _ _ _ => none
  | .invalidateAll _ => none
  | .getAddr _ _ _ => none
  | .isBlockValid _ _ _ => none
  | .validateInjection _ _ _ _ => none
  | .stats _ => none
  | .teardown _ => none
  | .blockInit _ => none
  | .insnExec _ _ _ => none
  | .memAccess _ _ => none
  | .loadPlan _ _ _ _ _ => none
  | .blockTeardown => none

/-- A word row is one InsnExec of its record (R301). -/
theorem exec_of_wordRecord {i : Instr} {r : Classification} (h : wordRecord i = some r) (s : State) :
    exec i s = s.onWord r := by
  cases i <;> cases h <;> rfl

/-- The records of the word rows are sound (R105, R106). -/
theorem wordRecord_sound {i : Instr} {r : Classification} (h : wordRecord i = some r) : r.Sound := by
  cases i <;> cases h <;>
    first
    | exact recordOf_sound _ _ _ _
    | exact recordXls_sound _ _
    | exact Classification.notMem_sound _

/-- The rows with a record are the rows with a word. -/
theorem wordRecord_isSome (i : Instr) : (wordRecord i).isSome = isWordRow i := by
  cases i <;> rfl

/-! ### InsnExec -/

/-- What InsnExec of any bytes is: one word's meaning, or the wrong size's (R91, R301). -/
theorem execInsnExec_cases (v : Word) (bytes : List Byte) (g : Vector Word 16) (s : State) :
    (∃ b0 b1 b2 b3, bytes = [b0, b1, b2, b3] ∧
      execInsnExec v bytes g s
        = State.onWord { s with insnVaddr := v, gpr := g } (classify (wordOfBytes b0 b1 b2 b3)))
    ∨ (bytes.length ≠ 4 ∧ execInsnExec v bytes g s = State.onWrongSize { s with insnVaddr := v, gpr := g }) := by
  rcases bytes with _ | ⟨b0, _ | ⟨b1, _ | ⟨b2, _ | ⟨b3, _ | ⟨b4, rest⟩⟩⟩⟩⟩
  case cons.cons.cons.cons.nil => exact .inl ⟨b0, b1, b2, b3, rfl, rfl⟩
  all_goals exact .inr ⟨by simp, rfl⟩

/-! ### Every instruction -/

/-- What an instruction that answers a next state did, where a block exists: one case for the word rows, two for InsnExec
(one word, or a wrong size), one for each other event, one for each command that writes, one for the four probes. -/
theorem exec_cases {i : Instr} {s t : State} {b : Block} (hb : s.block = some b) (h : exec i s = .next t) :
    (∃ r, wordRecord i = some r ∧
      t = { s with block := some (b.runWord r s.insnVaddr s.gpr).1
                   outputs := s.outputs ++ (b.runWord r s.insnVaddr s.gpr).2 })
    ∨ (∃ v b0 b1 b2 b3 g, i = .insnExec v [b0, b1, b2, b3] g ∧
      t = { s with insnVaddr := v, gpr := g
                   block := some (b.runWord (classify (wordOfBytes b0 b1 b2 b3)) v g).1
                   outputs := s.outputs ++ (b.runWord (classify (wordOfBytes b0 b1 b2 b3)) v g).2 })
    ∨ (∃ v bytes g, bytes.length ≠ 4 ∧ i = .insnExec v bytes g ∧
      t = { s with insnVaddr := v, gpr := g, freeCount := s.freeCount + 1
                   block := some (b.wrongSize (Config.freeCond s.freeCount) v).1
                   outputs := s.outputs ++ (b.wrongSize (Config.freeCond s.freeCount) v).2 })
    ∨ (∃ v dir, i = .memAccess v dir ∧ t = { s with block := some (b.memAccess v dir) })
    ∨ (∃ n name row way word, i = .loadPlan n name row way word ∧
      t = { s with block := some (b.loadPlan n name row way word).1
                   outputs := s.outputs ++ (b.loadPlan n name row way word).2 })
    ∨ (i = .blockTeardown ∧ t = { s with block := some b.teardown })
    ∨ (∃ cfg, i = .blockInit cfg ∧
      ((Block.init cfg = none ∧ t = { s with block := none, outputs := s.outputs ++ [.configError] })
        ∨ ∃ b', Block.init cfg = some b' ∧ t = { s with block := some b' }))
    ∨ (∃ c cfg, i = .init c cfg ∧
      ((Cache.init cfg (seedOf b.seeds c) = none ∧ t = { s with outputs := s.outputs ++ [.configError] })
        ∨ ∃ k, Cache.init cfg (seedOf b.seeds c) = some k ∧ t = { s with block := some (b.withCache c k) }))
    ∨ (∃ c a, i = .load c a ∧
      t = { s with block := some (b.withCache c ((b.cache c).load a).2)
                   outputs := s.outputs ++ [.access ((b.cache c).load a).1] })
    ∨ (∃ c a, i = .store c a ∧
      t = { s with block := some (b.withCache c ((b.cache c).store a).2)
                   outputs := s.outputs ++ [.access ((b.cache c).store a).1] })
    ∨ (∃ c row way, i = .invalidateBlock c row way ∧
      t = { s with block := some (b.withCache c ((b.cache c).invalidateBlock row way)) })
    ∨ (∃ c, i = .invalidateAll c ∧ t = { s with block := some (b.withCache c (b.cache c).invalidateAll) })
    ∨ (∃ c, i = .teardown c ∧ t = { s with block := some (b.withCache c (b.cache c).teardown) })
    ∨ (∃ o, (∀ n a ok, o ≠ .injectionReport n a ok) ∧ t = { s with outputs := s.outputs ++ [o] } ∧
      ((∃ c row way, i = .getAddr c row way ∧ o = .address ((b.cache c).getAddr row way))
        ∨ (∃ c row way, i = .isBlockValid c row way ∧ o = .flag ((b.cache c).isBlockValid row way))
        ∨ (∃ c row way word, i = .validateInjection c row way word ∧
            o = .validation ((b.cache c).validateInjection row way word))
        ∨ ∃ c, i = .stats c ∧ o = .counters (b.cache c).counters)) := by
  have hs : ∀ l : List Output, { s with block := some b, outputs := l } = { s with outputs := l } := by
    intro l; rw [← hb]
  cases hr : wordRecord i with
  | some r =>
    rw [exec_of_wordRecord hr, State.onWord, State.onBlock_some _ _ _ hb] at h
    exact .inl ⟨r, rfl, by simpa using h.symm⟩
  | none =>
    right
    cases i <;> try (simp only [wordRecord, reduceCtorEq] at hr; done)
    case insnExec v bytes g =>
      rw [exec] at h
      rcases execInsnExec_cases v bytes g s with ⟨b0, b1, b2, b3, rfl, e⟩ | ⟨hl, e⟩ <;> rw [e] at h
      · simp only [State.onWord, State.onBlock, hb, Host.Outcome.next.injEq] at h
        exact .inl ⟨v, b0, b1, b2, b3, g, rfl, h.symm⟩
      · simp only [State.onWrongSize, State.onBlock, hb, Host.Outcome.next.injEq] at h
        exact .inr (.inl ⟨v, bytes, g, hl, rfl, h.symm⟩)
    all_goals right
    all_goals right
    case memAccess v dir =>
      simp only [exec, execMemAccess, State.onBlock_some _ _ _ hb, Host.Outcome.next.injEq, List.append_nil] at h
      exact .inl ⟨v, dir, rfl, h.symm⟩
    all_goals right
    case loadPlan n name row way word =>
      simp only [exec, execLoadPlan, State.onBlock_some _ _ _ hb, Host.Outcome.next.injEq] at h
      exact .inl ⟨n, name, row, way, word, rfl, h.symm⟩
    all_goals right
    case blockTeardown =>
      simp only [exec, execBlockTeardown, State.onBlock_some _ _ _ hb, Host.Outcome.next.injEq, List.append_nil] at h
      exact .inl ⟨rfl, h.symm⟩
    all_goals right
    case blockInit cfg =>
      simp only [exec, execBlockInit] at h
      refine .inl ⟨cfg, rfl, ?_⟩
      cases hi : Block.init cfg with
      | none => rw [hi] at h; exact .inl ⟨rfl, by simpa using h.symm⟩
      | some b' => rw [hi] at h; exact .inr ⟨b', rfl, by simpa using h.symm⟩
    all_goals right
    case init c cfg =>
      simp only [exec, execInit, State.onBlock_some _ _ _ hb, Host.Outcome.next.injEq] at h
      refine .inl ⟨c, cfg, rfl, ?_⟩
      cases hi : Cache.init cfg (seedOf b.seeds c) with
      | none => rw [hi, hs] at h; exact .inl ⟨rfl, h.symm⟩
      | some k => rw [hi] at h; exact .inr ⟨k, rfl, by simpa using h.symm⟩
    all_goals simp only [exec, execLoad, execStore, execInvalidateBlock, execInvalidateAll, execTeardown, execGetAddr,
      execIsBlockValid, execValidateInjection, execStats, State.onCache, State.onBlock_some _ _ _ hb,
      Host.Outcome.next.injEq, List.append_nil, Block.withCache_cache, hs] at h
    all_goals right
    case load c a => exact .inl ⟨c, a, rfl, h.symm⟩
    all_goals right
    case store c a => exact .inl ⟨c, a, rfl, h.symm⟩
    all_goals right
    case invalidateBlock c row way => exact .inl ⟨c, row, way, rfl, h.symm⟩
    all_goals right
    case invalidateAll c => exact .inl ⟨c, rfl, h.symm⟩
    all_goals right
    case teardown c => exact .inl ⟨c, rfl, h.symm⟩
    all_goals right
    case getAddr c row way => exact ⟨_, by simp, h.symm, .inl ⟨c, row, way, rfl, rfl⟩⟩
    case isBlockValid c row way => exact ⟨_, by simp, h.symm, .inr (.inl ⟨c, row, way, rfl, rfl⟩)⟩
    case validateInjection c row way word => exact ⟨_, by simp, h.symm, .inr (.inr (.inl ⟨c, row, way, word, rfl, rfl⟩))⟩
    case stats c => exact ⟨_, by simp, h.symm, .inr (.inr (.inr ⟨c, rfl, rfl⟩))⟩

/-! ### The step -/

/-- What a step that answers a next state did: nothing, dropped a reserved code, or executed an instruction. -/
theorem step_cases {s t : State} (h : step s = .next t) :
    (s.inbox = [] ∧ t = s)
    ∨ (∃ q rest, s.inbox = q :: rest ∧ (∀ i, decode q ≠ .instr i) ∧ t = { s with inbox := rest })
    ∨ ∃ q rest i, s.inbox = q :: rest ∧ decode q = .instr i ∧ exec i (s.accept q rest) = .next t := by
  unfold step at h
  split at h
  · rename_i hi
    exact .inl ⟨hi, by simpa using h.symm⟩
  · rename_i q rest hi
    split at h
    · rename_i i hd
      exact .inr (.inr ⟨q, rest, i, hi, hd, h⟩)
    · rename_i hd
      exact .inr (.inl ⟨q, rest, hi, by simp [hd], by simpa using h.symm⟩)
    · rename_i hd
      exact .inr (.inl ⟨q, rest, hi, by simp [hd], by simpa using h.symm⟩)

end Sys2Proof.Machine
end

