-- ==== Sys2Proof/Tests/Slice0.lean ====
section
/-! SUPPORT. Tests: ill-formed terms, decoding of written-out words, one-step tests, and for every statement that has
hypotheses a state and operands that meet them. Expected results come from spec/95_test_vectors.md and the rules. -/

namespace Sys2Proof.Machine

/-! ### Well-formedness refuses -/

/-- Unprivileged single forms need `P = 0`, `W = 1`; the others exclude it (R94). -/
theorem test_ill_formed_unprivileged :
    WellFormed (.strtImm { cond := 14, p := true, u := true, w := true, rn := 1, rt := 2, imm12 := 4 }) = false
    ∧ WellFormed (.ldrbtReg { cond := 14, p := false, u := true, w := false, rn := 1, rt := 2, imm5 := 0
                              shiftType := 0, rm := 3 }) = false
    ∧ WellFormed (.strImm { cond := 14, p := false, u := true, w := true, rn := 1, rt := 2, imm12 := 4 }) = false
    ∧ WellFormed (.ldrReg { cond := 14, p := false, u := true, w := true, rn := 1, rt := 2, imm5 := 0
                            shiftType := 0, rm := 3 }) = false
    ∧ WellFormed (.strht { cond := 14, p := true, u := true, i := true, w := true, rn := 1, rt := 2, hi := 0, lo := 2 })
        = false
    ∧ WellFormed (.ldrshReg { cond := 14, p := false, u := true, i := false, w := true, rn := 1, rt := 2, hi := 0
                              lo := 2 }) = false := by
  decide

/-- The literal forms need `Rn = 15`, the immediate loads exclude it (R94, R95, R98). -/
theorem test_ill_formed_literal :
    WellFormed (.ldrLit { cond := 14, p := true, u := true, w := false, rn := 14, rt := 2, imm12 := 4 }) = false
    ∧ WellFormed (.ldrbImm { cond := 14, p := true, u := true, w := false, rn := 15, rt := 2, imm12 := 4 }) = false
    ∧ WellFormed (.ldrdLit { cond := 14, p := true, u := true, i := true, w := false, rn := 1, rt := 2, hi := 0
                             lo := 2 }) = false
    ∧ WellFormed (.ldrhImm { cond := 14, p := true, u := true, i := true, w := false, rn := 15, rt := 2, hi := 0
                             lo := 2 }) = false
    ∧ WellFormed (.cpLdLit { cond := 14, p := true, u := true, d := false, w := false, rn := 1, crd := 2, coproc := 14
                             imm8 := 2 }) = false
    ∧ WellFormed (.cpLdImm { cond := 14, p := true, u := true, d := false, w := false, rn := 15, crd := 2, coproc := 14
                             imm8 := 2 }) = false := by
  decide

/-- `w[22]` chooses the register or the immediate form of an extra word (R95). -/
theorem test_ill_formed_extra_form :
    WellFormed (.strdReg { cond := 14, p := true, u := true, i := true, w := false, rn := 1, rt := 2, hi := 0, lo := 2 })
      = false
    ∧ WellFormed (.strdImm { cond := 14, p := true, u := true, i := false, w := false, rn := 1, rt := 2, hi := 0
                             lo := 2 }) = false := by
  decide

/-- Block transfers: `S`, `w[15]`, `P`, `U`, and the stack forms (R97). -/
theorem test_ill_formed_block :
    WellFormed (.stmUser { cond := 14, p := true, u := true, s := false, w := false, rn := 1, registerList := 4 }) = false
    ∧ WellFormed (.ldmExret { cond := 14, p := true, u := true, s := true, w := false, rn := 1, registerList := 4 }) = false
    ∧ WellFormed (.ldmUser { cond := 14, p := true, u := true, s := true, w := false, rn := 1, registerList := 0x8000 })
        = false
    ∧ WellFormed (.popMult { cond := 14, p := false, u := true, s := false, w := false, rn := 13, registerList := 4 })
        = false
    ∧ WellFormed (.pushMult { cond := 14, p := true, u := false, s := false, w := true, rn := 12, registerList := 4 })
        = false
    ∧ WellFormed (.ldmia { cond := 14, p := false, u := true, s := false, w := true, rn := 13, registerList := 4 }) = false
    ∧ WellFormed (.stmdb { cond := 14, p := true, u := false, s := false, w := true, rn := 13, registerList := 4 }) = false
    ∧ WellFormed (.stmda { cond := 14, p := false, u := true, s := false, w := false, rn := 1, registerList := 4 })
        = false := by
  decide

/-- Coprocessor 10 is excluded, `(P, U, W) = (0, 0, 0)` is no load or store, a cache-control MCR is a row of its own
(R98, R99, R280). -/
theorem test_ill_formed_coprocessor :
    WellFormed (.cpStr { cond := 14, p := true, u := true, d := false, w := false, rn := 1, crd := 2, coproc := 10
                         imm8 := 2 }) = false
    ∧ WellFormed (.cpStr { cond := 14, p := false, u := false, d := true, w := false, rn := 1, crd := 2, coproc := 14
                           imm8 := 2 }) = false
    ∧ WellFormed (.cpMrc { cond := 14, opc1 := 0, crn := 7, rt := 0, coproc := 10, opc2 := 2, crm := 6 }) = false
    ∧ WellFormed (.cpMcr { cond := 14, opc1 := 0, crn := 7, rt := 0, coproc := 14, opc2 := 2, crm := 6 }) = false
    ∧ WellFormed (.cpMcr { cond := 14, opc1 := 0, crn := 7, rt := 0, coproc := 14, opc2 := 0, crm := 5 }) = false := by
  decide

/-- Each NOT_MEM row takes the words of its own part of the space; four bytes are a word row (R91, R101). -/
theorem test_ill_formed_not_memory :
    WellFormed (.notMemMedia { cond := 14, body := 0x6000000 }) = false
    ∧ WellFormed (.notMemMultiply { cond := 14, body := 0x1000090 }) = false
    ∧ WellFormed (.notMemDataProc { cond := 14, body := 0x00000B0 }) = false
    ∧ WellFormed (.notMemBranch { cond := 14, body := 0x8000000 }) = false
    ∧ WellFormed (.notMemFpCoproc { cond := 14, body := 0xC000B00 }) = false
    ∧ WellFormed (.notMemCoprocHole { cond := 14, body := 0xC800000 }) = false
    ∧ WellFormed (.notMemOther { cond := 14, body := 0xE000010 }) = false
    ∧ WellFormed (.insnExec 0 [0, 0, 0, 0] (Vector.replicate 16 0)) = false := by
  decide

/-! ### Decoding: one word for each row, written out bit by bit; the codes of commands and events -/

/-- R94, R200 to R213; words of 95_test_vectors.md section 4 and of the rules' formats. -/
theorem test_decode_regular_immediate :
    decodeWord 0b1110_010_0_1_0_1_0_0001_0010_000000000100#32 =
        .strtImm { cond := 0xe, p := false, u := true, w := true, rn := 1, rt := 2, imm12 := 0x4 }
    ∧ decodeWord 0b1110_010_0_1_0_1_1_0001_0010_000000000100#32 =
        .ldrtImm { cond := 0xe, p := false, u := true, w := true, rn := 1, rt := 2, imm12 := 0x4 }
    ∧ decodeWord 0b1110_010_0_1_1_1_0_0001_0010_000000000001#32 =
        .strbtImm { cond := 0xe, p := false, u := true, w := true, rn := 1, rt := 2, imm12 := 0x1 }
    ∧ decodeWord 0b1110_010_0_1_1_1_1_0001_0010_000000000001#32 =
        .ldrbtImm { cond := 0xe, p := false, u := true, w := true, rn := 1, rt := 2, imm12 := 0x1 }
    ∧ decodeWord 0b1110_010_1_0_0_1_0_1101_1110_000000000100#32 =
        .strImm { cond := 0xe, p := true, u := false, w := true, rn := 13, rt := 14, imm12 := 0x4 }
    ∧ decodeWord 0b1110_010_1_0_0_0_1_1111_0010_000000001000#32 =
        .ldrLit { cond := 0xe, p := true, u := false, w := false, rn := 15, rt := 2, imm12 := 0x8 }
    ∧ decodeWord 0b1110_010_1_1_0_1_1_0001_0010_000000000100#32 =
        .ldrImm { cond := 0xe, p := true, u := true, w := true, rn := 1, rt := 2, imm12 := 0x4 }
    ∧ decodeWord 0b1110_010_1_1_1_0_0_0001_0010_000000000001#32 =
        .strbImm { cond := 0xe, p := true, u := true, w := false, rn := 1, rt := 2, imm12 := 0x1 }
    ∧ decodeWord 0b1111_010_1_0_1_1_1_1111_1111_000001011111#32 =
        .ldrbLit { cond := 0xf, p := true, u := false, w := true, rn := 15, rt := 15, imm12 := 0x5f }
    ∧ decodeWord 0b1111_010_1_1_1_0_1_0001_1111_000000000000#32 =
        .ldrbImm { cond := 0xf, p := true, u := true, w := false, rn := 1, rt := 15, imm12 := 0x0 } := by
  decide

/-- R94, R201 to R213; words of 95_test_vectors.md section 4 and of the rules' formats. -/
theorem test_decode_regular_register :
    decodeWord 0b1110_011_0_1_0_1_0_0001_0010_00000_00_0_0011#32 =
        .strtReg { cond := 0xe, p := false, u := true, w := true, rn := 1, rt := 2, imm5 := 0, shiftType := 0, rm := 3 }
    ∧ decodeWord 0b1110_011_0_1_0_1_1_0001_0010_00010_00_0_0011#32 =
        .ldrtReg { cond := 0xe, p := false, u := true, w := true, rn := 1, rt := 2, imm5 := 2, shiftType := 0, rm := 3 }
    ∧ decodeWord 0b1110_011_0_1_1_1_0_0001_0010_00000_00_0_0011#32 =
        .strbtReg { cond := 0xe, p := false, u := true, w := true, rn := 1, rt := 2, imm5 := 0, shiftType := 0, rm := 3 }
    ∧ decodeWord 0b1110_011_0_1_1_1_1_0001_0010_00000_00_0_0011#32 =
        .ldrbtReg { cond := 0xe, p := false, u := true, w := true, rn := 1, rt := 2, imm5 := 0, shiftType := 0, rm := 3 }
    ∧ decodeWord 0b1110_011_1_1_0_0_0_0001_0010_00010_00_0_0011#32 =
        .strReg { cond := 0xe, p := true, u := true, w := false, rn := 1, rt := 2, imm5 := 2, shiftType := 0, rm := 3 }
    ∧ decodeWord 0b1110_011_1_1_0_0_1_0001_0010_00010_00_0_0011#32 =
        .ldrReg { cond := 0xe, p := true, u := true, w := false, rn := 1, rt := 2, imm5 := 2, shiftType := 0, rm := 3 }
    ∧ decodeWord 0b1110_011_1_1_1_0_0_0001_0010_00000_00_0_0011#32 =
        .strbReg { cond := 0xe, p := true, u := true, w := false, rn := 1, rt := 2, imm5 := 0, shiftType := 0, rm := 3 }
    ∧ decodeWord 0b1110_011_1_1_1_0_1_0001_0010_00000_00_0_0011#32 =
        .ldrbReg { cond := 0xe, p := true, u := true, w := false, rn := 1, rt := 2, imm5 := 0, shiftType := 0, rm := 3 } := by
  decide

/-- R95, R216 to R235; words of 95_test_vectors.md section 4 and of the rules' formats. -/
theorem test_decode_extra :
    decodeWord 0b1110_000_0_1_1_1_0_0001_0010_0000_1_01_1_0010#32 =
        .strht { cond := 0xe, p := false, u := true, i := true, w := true, rn := 1, rt := 2, hi := 0, lo := 2 }
    ∧ decodeWord 0b1110_000_0_1_1_1_1_0001_0010_0000_1_01_1_0010#32 =
        .ldrht { cond := 0xe, p := false, u := true, i := true, w := true, rn := 1, rt := 2, hi := 0, lo := 2 }
    ∧ decodeWord 0b1110_000_0_1_1_1_1_0001_0010_0000_1_10_1_0001#32 =
        .ldrsbt { cond := 0xe, p := false, u := true, i := true, w := true, rn := 1, rt := 2, hi := 0, lo := 1 }
    ∧ decodeWord 0b1110_000_0_1_1_1_1_0001_0010_0000_1_11_1_0010#32 =
        .ldrsht { cond := 0xe, p := false, u := true, i := true, w := true, rn := 1, rt := 2, hi := 0, lo := 2 }
    ∧ decodeWord 0b1110_000_1_1_0_0_0_0001_0010_1111_1_01_1_0011#32 =
        .strhReg { cond := 0xe, p := true, u := true, i := false, w := false, rn := 1, rt := 2, hi := 15, lo := 3 }
    ∧ decodeWord 0b1110_000_1_1_1_0_0_0001_0010_0000_1_01_1_0100#32 =
        .strhImm { cond := 0xe, p := true, u := true, i := true, w := false, rn := 1, rt := 2, hi := 0, lo := 4 }
    ∧ decodeWord 0b1110_000_1_1_0_0_1_1111_0010_0000_1_01_1_0011#32 =
        .ldrhReg { cond := 0xe, p := true, u := true, i := false, w := false, rn := 15, rt := 2, hi := 0, lo := 3 }
    ∧ decodeWord 0b1110_000_1_1_1_0_1_1111_0010_0000_1_01_1_0100#32 =
        .ldrhLit { cond := 0xe, p := true, u := true, i := true, w := false, rn := 15, rt := 2, hi := 0, lo := 4 }
    ∧ decodeWord 0b1110_000_1_1_1_0_1_0001_0010_1111_1_01_1_1111#32 =
        .ldrhImm { cond := 0xe, p := true, u := true, i := true, w := false, rn := 1, rt := 2, hi := 15, lo := 15 }
    ∧ decodeWord 0b1110_000_1_1_0_0_0_0001_0010_0000_1_10_1_0100#32 =
        .ldrdReg { cond := 0xe, p := true, u := true, i := false, w := false, rn := 1, rt := 2, hi := 0, lo := 4 }
    ∧ decodeWord 0b1110_000_1_1_1_0_0_1111_0010_0000_1_10_1_1000#32 =
        .ldrdLit { cond := 0xe, p := true, u := true, i := true, w := false, rn := 15, rt := 2, hi := 0, lo := 8 }
    ∧ decodeWord 0b1110_000_0_1_1_1_0_0001_0010_0000_1_10_1_0000#32 =
        .ldrdImm { cond := 0xe, p := false, u := true, i := true, w := true, rn := 1, rt := 2, hi := 0, lo := 0 }
    ∧ decodeWord 0b1110_000_1_1_0_0_1_0001_0010_0000_1_10_1_0011#32 =
        .ldrsbReg { cond := 0xe, p := true, u := true, i := false, w := false, rn := 1, rt := 2, hi := 0, lo := 3 }
    ∧ decodeWord 0b1110_000_1_1_1_0_1_1111_0010_0000_1_10_1_0100#32 =
        .ldrsbLit { cond := 0xe, p := true, u := true, i := true, w := false, rn := 15, rt := 2, hi := 0, lo := 4 }
    ∧ decodeWord 0b1110_000_1_1_1_0_1_0001_0010_0000_1_10_1_0001#32 =
        .ldrsbImm { cond := 0xe, p := true, u := true, i := true, w := false, rn := 1, rt := 2, hi := 0, lo := 1 }
    ∧ decodeWord 0b1110_000_1_1_0_0_0_0001_0010_0000_1_11_1_0100#32 =
        .strdReg { cond := 0xe, p := true, u := true, i := false, w := false, rn := 1, rt := 2, hi := 0, lo := 4 }
    ∧ decodeWord 0b1110_000_0_1_1_1_0_0001_0010_0000_1_11_1_0000#32 =
        .strdImm { cond := 0xe, p := false, u := true, i := true, w := true, rn := 1, rt := 2, hi := 0, lo := 0 }
    ∧ decodeWord 0b1110_000_1_1_0_0_1_0001_0010_0000_1_11_1_0011#32 =
        .ldrshReg { cond := 0xe, p := true, u := true, i := false, w := false, rn := 1, rt := 2, hi := 0, lo := 3 }
    ∧ decodeWord 0b1110_000_1_1_1_0_1_1111_0010_0000_1_11_1_0100#32 =
        .ldrshLit { cond := 0xe, p := true, u := true, i := true, w := false, rn := 15, rt := 2, hi := 0, lo := 4 }
    ∧ decodeWord 0b1110_000_1_1_1_0_1_0001_0010_0000_1_11_1_0010#32 =
        .ldrshImm { cond := 0xe, p := true, u := true, i := true, w := false, rn := 1, rt := 2, hi := 0, lo := 2 } := by
  decide

/-- R96, R240 to R249; words of 95_test_vectors.md section 4 and of the rules' formats. -/
theorem test_decode_synchronization :
    decodeWord 0b1110_0001_0000_0001_0010_0000_1001_0011#32 = .swp { cond := 0xe, rn := 1, rd := 2, ign := 0, rm := 3 }
    ∧ decodeWord 0b1110_0001_0100_0001_0010_0000_1001_0011#32 =
        .swpb { cond := 0xe, rn := 1, rd := 2, ign := 0, rm := 3 }
    ∧ decodeWord 0b1110_0001_1000_0001_0010_1111_1001_0011#32 =
        .strex { cond := 0xe, rn := 1, rd := 2, ign := 15, rm := 3 }
    ∧ decodeWord 0b1110_0001_1001_0001_0010_0000_1001_0000#32 =
        .ldrex { cond := 0xe, rn := 1, rd := 2, ign := 0, rm := 0 }
    ∧ decodeWord 0b1110_0001_1010_0001_0010_1111_1001_0100#32 =
        .strexd { cond := 0xe, rn := 1, rd := 2, ign := 15, rm := 4 }
    ∧ decodeWord 0b1110_0001_1011_0001_0010_1111_1001_1111#32 =
        .ldrexd { cond := 0xe, rn := 1, rd := 2, ign := 15, rm := 15 }
    ∧ decodeWord 0b1110_0001_1100_0001_0010_1111_1001_0011#32 =
        .strexb { cond := 0xe, rn := 1, rd := 2, ign := 15, rm := 3 }
    ∧ decodeWord 0b1110_0001_1101_0001_0010_1111_1001_1111#32 =
        .ldrexb { cond := 0xe, rn := 1, rd := 2, ign := 15, rm := 15 }
    ∧ decodeWord 0b1110_0001_1110_0001_0010_1111_1001_0011#32 =
        .strexh { cond := 0xe, rn := 1, rd := 2, ign := 15, rm := 3 }
    ∧ decodeWord 0b1110_0001_1111_0001_0010_1111_1001_1111#32 =
        .ldrexh { cond := 0xe, rn := 1, rd := 2, ign := 15, rm := 15 } := by
  decide

/-- R97, R260 to R272; words of 95_test_vectors.md section 4 and of the rules' formats. -/
theorem test_decode_block_transfer :
    decodeWord 0b1111_100_1_0_1_1_0_1101_0000010100010011#32 =
        .stmUser { cond := 0xf, p := true, u := false, s := true, w := true, rn := 13, registerList := 0x513 }
    ∧ decodeWord 0b1110_100_1_0_1_0_1_1101_1000000000000000#32 =
        .ldmExret { cond := 0xe, p := true, u := false, s := true, w := false, rn := 13, registerList := 0x8000 }
    ∧ decodeWord 0b1110_100_0_1_1_0_1_0001_0000000000000100#32 =
        .ldmUser { cond := 0xe, p := false, u := true, s := true, w := false, rn := 1, registerList := 0x4 }
    ∧ decodeWord 0b1110_100_0_1_0_1_1_1101_0000000000001111#32 =
        .popMult { cond := 0xe, p := false, u := true, s := false, w := true, rn := 13, registerList := 0xf }
    ∧ decodeWord 0b1110_100_1_0_0_1_0_1101_0100000000010000#32 =
        .pushMult { cond := 0xe, p := true, u := false, s := false, w := true, rn := 13, registerList := 0x4010 }
    ∧ decodeWord 0b1110_100_0_0_0_0_0_0001_0000000000000100#32 =
        .stmda { cond := 0xe, p := false, u := false, s := false, w := false, rn := 1, registerList := 0x4 }
    ∧ decodeWord 0b1110_100_0_0_0_0_1_0001_0000000000000100#32 =
        .ldmda { cond := 0xe, p := false, u := false, s := false, w := false, rn := 1, registerList := 0x4 }
    ∧ decodeWord 0b1110_100_0_1_0_1_0_1101_0000000000000011#32 =
        .stmia { cond := 0xe, p := false, u := true, s := false, w := true, rn := 13, registerList := 0x3 }
    ∧ decodeWord 0b1110_100_0_1_0_0_1_1101_0000000000001111#32 =
        .ldmia { cond := 0xe, p := false, u := true, s := false, w := false, rn := 13, registerList := 0xf }
    ∧ decodeWord 0b1110_100_1_0_0_0_0_1101_0100000000010000#32 =
        .stmdb { cond := 0xe, p := true, u := false, s := false, w := false, rn := 13, registerList := 0x4010 }
    ∧ decodeWord 0b1110_100_1_0_0_1_1_1101_0000000000000011#32 =
        .ldmdb { cond := 0xe, p := true, u := false, s := false, w := true, rn := 13, registerList := 0x3 }
    ∧ decodeWord 0b1110_100_1_1_0_0_0_0001_0000000000000100#32 =
        .stmib { cond := 0xe, p := true, u := true, s := false, w := false, rn := 1, registerList := 0x4 }
    ∧ decodeWord 0b1110_100_1_1_0_0_1_0001_0000000000000100#32 =
        .ldmib { cond := 0xe, p := true, u := true, s := false, w := false, rn := 1, registerList := 0x4 } := by
  decide

/-- R98, R99, R274 to R282; words of 95_test_vectors.md section 4 and of the rules' formats. -/
theorem test_decode_coprocessor :
    decodeWord 0b1110_110_1_1_0_0_0_0001_0010_1011_00000010#32 =
        .cpStr { cond := 0xe, p := true, u := true, d := false, w := false, rn := 1, crd := 2, coproc := 0xb, imm8 := 2 }
    ∧ decodeWord 0b1110_110_1_1_0_0_1_1111_0010_1011_00000010#32 =
        .cpLdLit { cond := 0xe, p := true, u := true, d := false, w := false, rn := 15, crd := 2, coproc := 0xb, imm8 := 2 }
    ∧ decodeWord 0b1110_110_1_1_1_0_1_0001_0010_0101_00000010#32 =
        .cpLdImm { cond := 0xe, p := true, u := true, d := true, w := false, rn := 1, crd := 2, coproc := 0x5, imm8 := 2 }
    ∧ decodeWord 0b0001_1110_000_0_0111_0011_1110_010_1_0110#32 = .dcisw { cond := 0x1, rt := 3 }
    ∧ decodeWord 0b1110_1110_000_0_0111_1111_1110_000_1_0101#32 = .iciallu { cond := 0xe, rt := 15 }
    ∧ decodeWord 0b1110_1110_001_0_0111_0000_1110_010_1_0110#32 =
        .cpMcr { cond := 0xe, opc1 := 1, crn := 7, rt := 0, coproc := 0xe, opc2 := 2, crm := 6 }
    ∧ decodeWord 0b1110_1110_000_1_0111_0000_1110_000_1_0101#32 =
        .cpMrc { cond := 0xe, opc1 := 0, crn := 7, rt := 0, coproc := 0xe, opc2 := 0, crm := 5 } := by
  decide

/-- R101, R250; words of 95_test_vectors.md section 4 and of the rules' formats. -/
theorem test_decode_not_memory :
    decodeWord 0b1110_011_11111_0000_0000_0000_1111_0000#32 = .notMemMedia { cond := 0xe, body := 0x7f000f0 }
    ∧ decodeWord 0b1110_000_10111_0001_0010_0000_1001_0011#32 = .notMemMultiply { cond := 0xe, body := 0x1712093 }
    ∧ decodeWord 0b1110_000_11010_0000_0000_0000_0000_0000#32 = .notMemDataProc { cond := 0xe, body := 0x1a00000 }
    ∧ decodeWord 0b1110_101_10000_0000_0000_0000_0001_0000#32 = .notMemBranch { cond := 0xe, body := 0xb000010 }
    ∧ decodeWord 0b1110_110_11001_0001_0010_1010_0000_0001#32 = .notMemFpCoproc { cond := 0xe, body := 0xd912a01 }
    ∧ decodeWord 0b1110_110_00100_0001_0010_1110_0001_0010#32 = .notMemCoprocHole { cond := 0xe, body := 0xc412e12 }
    ∧ decodeWord 0b1110_111_10000_0000_0000_0000_0000_0000#32 = .notMemOther { cond := 0xe, body := 0xf000000 } := by
  decide
/-- The ten engine commands, `cache_select` before `op` (R109). -/
theorem test_decode_commands :
    decode (.command 0b00_0000 { config := Config.firstLevel }) = .instr (.init .icache Config.firstLevel)
    ∧ decode (.command 0b01_0001 { addr := 0x1000 }) = .instr (.load .dcache 0x1000)
    ∧ decode (.command 0b10_0010 { addr := 0x1000 }) = .instr (.store .l2 0x1000)
    ∧ decode (.command 0b00_0011 { row := 1, way := 2 }) = .instr (.invalidateBlock .icache 1 2)
    ∧ decode (.command 0b01_0100 {}) = .instr (.invalidateAll .dcache)
    ∧ decode (.command 0b10_0101 { row := 1, way := 2 }) = .instr (.getAddr .l2 1 2)
    ∧ decode (.command 0b00_0110 { row := 1, way := 2 }) = .instr (.isBlockValid .icache 1 2)
    ∧ decode (.command 0b01_0111 { row := 1, way := 2, word := 3 }) = .instr (.validateInjection .dcache 1 2 3)
    ∧ decode (.command 0b10_1000 {}) = .instr (.stats .l2)
    ∧ decode (.command 0b01_1001 {}) = .instr (.teardown .dcache) := by
  decide

/-- The five events (R110); bytes `04 20 91 E5` are the word `0xE5912004` (vector K2). -/
theorem test_decode_events :
    decode (.event 0b000 { config := Config.standard }) = .instr (.blockInit Config.standard)
    ∧ decode (.event 0b001 { vaddr := 0x8000, bytes := [0x00, 0xBF] })
        = .instr (.insnExec 0x8000 [0x00, 0xBF] (Vector.replicate 16 0))
    ∧ decode (.event 0b001 { bytes := [0x04, 0x20, 0x91, 0xE5] })
        = .instr (.ldrImm { cond := 14, p := true, u := true, w := false, rn := 1, rt := 2, imm12 := 4 })
    ∧ decode (.event 0b010 { vaddr := 0x20000, dir := .write }) = .instr (.memAccess 0x20000 .write)
    ∧ decode (.event 0b011 { sleepCycles := 4, name := .dcache, row := 128, way := 0, word := 3 })
        = .instr (.loadPlan 4 .dcache 128 0 3)
    ∧ decode (.event 0b100 {}) = .instr .blockTeardown := by
  decide

/-- Table words, the host's way in: a word row, a command, an event (R109, R110). -/
theorem test_decode_table_words :
    decodeTableWord 32 0x04200000
        = some (.strtImm { cond := 0, p := false, u := false, w := true, rn := 0, rt := 0, imm12 := 0 })
    ∧ decodeTableWord 32 0x0E070E56 = some (.dcisw { cond := 0, rt := 0 })
    ∧ decodeTableWord 8 0b01_1000 = some (.stats .dcache)
    ∧ decodeTableWord 8 0b11_0000 = none := by
  decide

/-! ### States the tests start from -/

/-- `init(128, 4, 16, ROUND_ROBIN, WRITE_ALLOCATE)` (vector E7). -/
def smallConfig : CacheConfig :=
  { size := 128, assoc := 4, block := 16, repl := .roundRobin, alloc := .writeAllocate }

/-- The cache that `init` makes of `smallConfig`. -/
def smallCache : Cache :=
  { size := 128, assoc := 4, blockSize := 16, rows := 2, alloc := .writeAllocate, blockOffsetBits := 4, rowBits := 1
    entries := [], repl := .roundRobin [], counters := .zero, live := true }

/-- Vector E7 after line 4: row 1 is `1 2 3 4`, cursor 0. -/
def fullRow : Cache :=
  { smallCache with
    entries := [(4, { tag := 1, valid := true }), (5, { tag := 2, valid := true }), (6, { tag := 3, valid := true }),
                (7, { tag := 4, valid := true })]
    counters := { Counters.zero with loadMisses := 4, compulsoryMisses := 4 } }

/-- Vector S2-RANDOM after line 4, `SEED0 = 1`: row 7 of the default D-cache is `1 2 3 4`. -/
def fullRandomRow : Cache :=
  { Cache.firstLevelReset 1 with
    entries := [(28, { tag := 1, valid := true }), (29, { tag := 2, valid := true }), (30, { tag := 3, valid := true }),
                (31, { tag := 4, valid := true })]
    counters := { Counters.zero with loadMisses := 4, compulsoryMisses := 4 } }

/-- The machine after reset with another block in it. -/
def withBlock (f : Block → Block) : State := { State.reset with block := some (f .reset) }

/-- The machine after reset with another D-cache in it. -/
def withD (k : Cache) : State := withBlock fun b => { b with dcache := k }

/-- A property of the block, the outputs and the end of one instruction. -/
def after (i : Instr) (s : State) (p : Block → List Output → Bool) : Bool :=
  match exec i s with
  | .next t =>
    match t.block with
    | some b => p b t.outputs
    | none => false
  | .fault _ => false
  | .refused _ => false

/-- Register values of which only `gpr[n]` is not zero. -/
def oneReg (n : Fin 16) (v : Word) : Vector Word 16 := (Vector.replicate 16 0#32).set n v

/-! ### Classification (95_test_vectors.md section 4) -/

/-- The records of the vectors of 4.1 to 4.5, by identifier, direction and fields, a few of each family. -/
theorem test_records :
    classify 0xF5D1F000#32 = { id := .ldrbImm, category := .regular, direction := .load, format := some .lsImm
                               cond := 15, fields := .regularImm 1 15 ⟨true, true, false⟩ 0 0 }
    ∧ classify 0xE7912103#32 = { id := .ldrReg, category := .regular, direction := .load, format := some .lsReg
                                 cond := 14, fields := .regularReg 1 2 ⟨true, true, false⟩ 3 2 0 }
    ∧ classify 0xE1D12FBF#32 = { id := .ldrhImm, category := .extra, direction := .load, format := some .xlsImm
                                 cond := 14, fields := .extraImm 1 2 ⟨true, true, false⟩ 0xFF 0xFF }
    ∧ classify 0xE0A120B3#32 = { id := .strht, category := .extra, direction := .store, format := some .xlsReg
                                 cond := 14, fields := .extraReg 1 2 ⟨true, false, true⟩ 3 }
    ∧ classify 0xE1412093#32 = { id := .swpb, category := .sync, direction := .loadStore, format := some .sync
                                 cond := 14, fields := .sync 4 1 2 3 }
    ∧ classify 0xE92D4010#32 = { id := .pushMult, category := .block, direction := .store, format := some .blk
                                 cond := 14, fields := .block 13 0x4010 true false true false }
    ∧ classify 0xEDD12502#32 = { id := .cpLdImm, category := .coproc, direction := .load, format := some .cpLs
                                 cond := 14, fields := .coprocLs 5 1 2 ⟨true, true, false⟩ true 2 }
    ∧ classify 0xFE070E56#32 = { id := .cpMcr, category := .coproc, direction := .noDirection, format := some .cpRt
                                 cond := 15, fields := .coprocRt 14 0 7 0 2 6 .dcisw }
    ∧ classify 0xEE270E56#32 = { id := .cpMcr, category := .coproc, direction := .noDirection, format := some .cpRt
                                 cond := 14, fields := .coprocRt 14 1 7 0 2 6 .noOp }
    ∧ classify 0xEF000000#32 = .notMem 14 := by
  decide

/-- Neighbours in the encoding space that are told apart by one test (vectors of 4.1 to 4.5). -/
theorem test_identifiers :
    [0xE4BF2004#32, 0xE7912113, 0xE0E120D0, 0xE0E120F0, 0xE19F20B3, 0xE0010392, 0xE1112093, 0xE1712093, 0xE89D000F,
      0xE8AD0003, 0xE8BC000F, 0xE9CD0004, 0xF8910A00, 0xFA000000, 0xED912A01, 0xED912B02, 0xEC412B12, 0xEE070F56,
      0xEE000A10, 0xEE000B10, 0xEE000E00].map (fun w => (classify w).id)
    = [.ldrt, .notMem, .ldrdImm, .strdImm, .ldrhReg, .notMem, .notMem, .notMem, .ldmia,
      .stmia, .ldmia, .stmUser, .ldmia, .notMem, .notMem, .cpLdImm, .notMem, .cpMcr,
      .notMem, .cpMcr, .notMem] := by
  decide

/-- Vector K1: re-encoding, and the one word of it that loses `w[11:8]`. -/
theorem test_rebuild :
    [0xE5B12004#32, 0xE4B12004, 0xE4912004, 0xE1D12FBF, 0xE1812FB3].map (fun w => (classify w).rebuild)
      = [some 0xE5B12004#32, some 0xE4B12004, some 0xE4912004, some 0xE1D12FBF, some 0xE18120B3] := by
  decide

/-! ### One step of each instruction -/

/-- The standard instance is what `BlockInit` builds, and its arrays are canonical (vector Z1). -/
theorem test_reset : Block.init Config.standard = some Block.reset := rfl

/-- Vector E1: what `init` accepts, and what it refuses. -/
theorem test_init :
    Cache.init smallConfig 1 = some smallCache
    ∧ ([(32768, 3, 32), (0, 4, 32), (32768, 4, 0), (96, 1, 32), (64, 4, 32), (32, 4, 32)].map
        fun x => Cache.init { smallConfig with size := x.1, assoc := x.2.1, block := x.2.2 } 1)
      = [none, none, none, none, none, none]
    ∧ after (.init .dcache smallConfig) .reset (fun b out => b.dcache = smallCache && out = []) = true
    ∧ after (.init .dcache { smallConfig with assoc := 3 }) .reset
        (fun b out => b = .reset && out = [.configError]) = true := by
  decide

/-- Vector E2 in the default D-cache and L2. -/
theorem test_address :
    let d := Cache.firstLevelReset 1
    let l := Cache.secondLevelReset
    (d.tagOf 0x12345, d.rowOf 0x12345, d.offsetOf 0x12345) = (9#32, 26, 5)
    ∧ (d.tagOf 0xFFFFFFFF, d.rowOf 0xFFFFFFFF, d.offsetOf 0xFFFFFFFF) = (0x7FFFF#32, 255, 31)
    ∧ (l.tagOf 0xABCDE00C, l.rowOf 0xABCDE00C, l.offsetOf 0xABCDE00C) = (0xABCD#32, 1792, 12) := by
  decide

/-- Vector E7, line 5, and vector E4: a load that evicts, a load that hits. -/
theorem test_load :
    after (.load .dcache 0xB0) (withD fullRow) (fun b out =>
      (List.range 4).map (fun w => (b.dcache.entry 1 w).tag) = [5, 2, 3, 4]
      && b.dcache.repl = .roundRobin [(1, 1)] && b.dcache.counters.evictions = 1
      && b.dcache.counters.loadMisses = 5 && out = [.access .miss]) = true
    ∧ after (.load .dcache 0x9F) (withD fullRow) (fun b out =>
      b.dcache = { fullRow with counters := { fullRow.counters with loadHits := 1 } } && out = [.access .hit]) = true := by
  decide

/-- Vector S2-RANDOM, line 5: seed `0x0000BC8F`, victim 3. -/
theorem test_load_random :
    after (.load .dcache 0xA0E0) (withD fullRandomRow) (fun b _ =>
      (List.range 4).map (fun w => (b.dcache.entry 7 w).tag) = [1, 2, 3, 5] && b.dcache.repl = .random 0xBC8F
      && b.dcache.counters.evictions = 1) = true := by
  decide

/-- Vector E6 and vector E7, line 10: a store miss fills only under WRITE_ALLOCATE. -/
theorem test_store :
    after (.store .dcache 0x100) .reset (fun b out =>
      b.dcache = { Cache.firstLevelReset 1 with counters := { Counters.zero with storeMisses := 1 } }
      && out = [.access .miss]) = true
    ∧ after (.store .dcache 0x110) (withD fullRow) (fun b _ =>
      b.dcache.entry 1 0 = { tag := 8, valid := true } && b.dcache.counters.storeMisses = 1
      && b.dcache.counters.evictions = 1) = true := by
  decide

/-- Vector E7, line 6, and its last lines: one entry loses its valid bit and keeps its tag; out of range nothing. -/
theorem test_invalidate_block :
    after (.invalidateBlock .dcache 1 2) (withD fullRow) (fun b out =>
      b.dcache.entry 1 2 = { tag := 3, valid := false } && b.dcache.entry 1 3 = { tag := 4, valid := true }
      && out = []) = true
    ∧ after (.invalidateBlock .dcache 1 4) (withD fullRow) (fun b _ => b.dcache = fullRow) = true := by
  decide

/-- Vector E8: every valid bit, counters kept. -/
theorem test_invalidate_all :
    after (.invalidateAll .dcache) (withD fullRow) (fun b _ =>
      (List.range 4).all (fun w => !(b.dcache.entry 1 w).valid) && b.dcache.counters = fullRow.counters) = true := by
  decide

/-- Vector E7 after line 4: addresses of row 1; rows and ways out of range. -/
theorem test_probes :
    after (.getAddr .dcache 1 1) (withD fullRow) (fun _ out => out = [.address 0x50]) = true
    ∧ after (.getAddr .dcache 5 0) (withD fullRow) (fun _ out => out = [.address 0]) = true
    ∧ after (.isBlockValid .dcache 1 3) (withD fullRow) (fun _ out => out = [.flag true]) = true
    ∧ after (.isBlockValid .dcache 1 4) (withD fullRow) (fun _ out => out = [.flag false]) = true := by
  decide

/-- Vector E9. -/
theorem test_validate_injection :
    [(255, 3, 7), (256, 0, 0), (0, 4, 0), (0, 0, 8)].map
        (fun x => (Cache.firstLevelReset 1).validateInjection x.1 x.2.1 x.2.2)
      = [.ok, .rangeError, .rangeError, .rangeError]
    ∧ { smallCache with live := false }.validateInjection 0 0 0 = .invalidCache := by
  decide

/-- Vector E11: a torn-down cache still shows its counters. -/
theorem test_stats_and_teardown :
    after (.stats .dcache) (withD { fullRow with live := false }) (fun _ out =>
      out = [.counters { Counters.zero with loadMisses := 4, compulsoryMisses := 4 }]) = true
    ∧ after (.teardown .dcache) (withD fullRow) (fun b _ => b.dcache = { fullRow with live := false }) = true := by
  decide

/-- Program P2, steps 4, 6 and 7: `r0 = 0x80000050` is set 5, way 2; a failed condition does not matter; set 256 is out of
range. -/
theorem test_dcisw :
    after (.dcisw { cond := 14, rt := 0 })
      { withD { Cache.firstLevelReset 1 with entries := [(22, { tag := 0x33, valid := true })] } with
        gpr := oneReg 0 0x80000050, insnVaddr := 0x800C }
      (fun b _ => b.dcache.entry 5 2 = { tag := 0x33, valid := false } && b.insnCount = 1) = true
    ∧ after (.dcisw { cond := 1, rt := 3 })
      { withD { Cache.firstLevelReset 1 with entries := [(1023, { tag := 0x33, valid := true })] } with
        gpr := oneReg 3 0xC0000FFE }
      (fun b _ => b.dcache.entry 255 3 = { tag := 0x33, valid := false }) = true := by
  decide

/-- Program P2, step 9: the ICIALLU's own fetch is counted and its line is gone. -/
theorem test_iciallu :
    after (.iciallu { cond := 14, rt := 0 }) { State.reset with insnVaddr := 0x8020 } (fun b _ =>
      b.insnCount = 1 && b.icache.counters.loadMisses = 1
      && b.icache.entry 1 0 = { tag := 4, valid := false } && b.l2.entry 1025 0 = { tag := 0, valid := true }) = true := by
  decide

/-- Vector A2: an instruction outside `.text` is classified and nothing else; inside, vector H1. -/
theorem test_word_fetch :
    after (.ldrImm { cond := 14, p := true, u := true, w := false, rn := 1, rt := 2, imm12 := 4 })
      { State.reset with insnVaddr := 0x10000 } (fun b out =>
        b = { Block.reset with cur := classify 0xE5912004 } && out = []) = true
    ∧ after (.notMemDataProc { cond := 14, body := 0x1A00000 }) { State.reset with insnVaddr := 0x8000 } (fun b _ =>
        b.insnCount = 1 && b.icache.entry 0 0 = { tag := 4, valid := true }
        && b.l2.entry 1024 0 = { tag := 0, valid := true } && b.l2.counters.loadMisses = 1) = true := by
  decide

/-- Vector A1: two bytes are reported, counted and fetched. -/
theorem test_insn_exec_wrong_size :
    after (.insnExec 0x8000 [0x00, 0xBF] (Vector.replicate 16 0)) .reset (fun b out =>
      out = [.sizeMismatch 0x8000] && b.insnCount = 1 && b.cur.id = .notMem
      && b.icache.counters.loadMisses = 1 && b.l2.counters.loadMisses = 1) = true := by
  decide

/-- Each wrong size takes a free value of its own; a word takes none. -/
theorem test_free_count :
    (match exec (.insnExec 0x8000 [] (Vector.replicate 16 0)) { State.reset with freeCount := 3 } with
      | .next t => t.freeCount
      | _ => 0) = 4
    ∧ (match exec (.insnExec 0x8000 (bytesOfWord 0xE1A00000) (Vector.replicate 16 0)) .reset with
      | .next t => t.freeCount
      | _ => 1) = 0 :=
  ⟨rfl, rfl⟩

/-- Vector A5, and vector A2: the ends of `.text`. -/
theorem test_mem_access :
    after (.memAccess 0x100 .read) .reset (fun b _ => b = .reset) = true
    ∧ [0x8FFF#32, 0x9000, 0x7FFF].map (fun a =>
        after (.memAccess a .write) (withBlock fun b => { b with cur := classify 0xE5912004 })
          (fun b _ => b.storeCount = 1 && b.dcache.counters.storeMisses = 1 && b.l2.counters.storeMisses = 1))
      = [false, true, true] := by
  decide

/-- Vector J1. -/
theorem test_load_plan :
    after (.loadPlan 4 .dcache 256 0 3) .reset (fun b out =>
      b = .reset && out = [.invalidInjection .rangeError]) = true
    ∧ after (.loadPlan 4 .dcache 128 0 3) .reset (fun b out =>
      b.plan = some { sleepCycles := 4, target := .dcache, row := 128, way := 0, wordInBlock := 3 } && out = []) = true := by
  decide

/-- Vectors J2 and J3: the report of a slot that is not valid, and of the line the fetch itself brought in. -/
theorem test_injection :
    after (.notMemDataProc { cond := 14, body := 0x1A00000 })
      { withBlock (fun b => { b with plan := some { sleepCycles := 1, target := .l2, row := 5, way := 1
                                                    wordInBlock := 2 } }) with insnVaddr := 0x8000 }
      (fun b out => b.injState = .fired && out = [.injectionReport 1 0x00000008 false]) = true
    ∧ after (.notMemDataProc { cond := 14, body := 0x1A00000 })
      { withBlock (fun b => { b with plan := some { sleepCycles := 0, target := .icache, row := 0, way := 0
                                                    wordInBlock := 0 } }) with insnVaddr := 0x8000 }
      (fun b out => b.injState = .fired && out = [.injectionReport 1 0x00008000 true]) = true := by
  decide

/-- Vector Z1, and a bad D-cache; vector A6 begins with Teardown. -/
theorem test_block_init_and_teardown :
    exec (.blockInit Config.standard) { State.reset with block := none } = .next .reset
    ∧ exec (.blockInit { Config.standard with dcache := { Config.firstLevel with assoc := 3 } }) .reset
        = .next { State.reset with block := none, outputs := [.configError] }
    ∧ after .blockTeardown .reset (fun b _ => !b.icache.live && !b.dcache.live && !b.l2.live) = true :=
  ⟨rfl, rfl, by decide⟩

/-- The host's probe: the step runs the word placed as the next request. -/
theorem test_with_fetch_word :
    step (State.reset.withFetchWord 32 0xE5912004)
      = exec (.ldrImm { cond := 14, p := true, u := true, w := false, rn := 1, rt := 2, imm12 := 4 }) .reset :=
  rfl

/-! ### For every statement with hypotheses, a state and operands that meet them -/

/-- The state after reset holds a block: the hypothesis of every statement about one instruction. -/
theorem test_witness_a_block : State.reset.block = some Block.reset := rfl

theorem test_reset_sound : Block.reset.Sound := Block.init_sound test_reset

theorem test_small_sound : smallCache.Sound := Cache.init_sound (cfg := smallConfig) (seed := 1) rfl

theorem test_full_row_sound : fullRow.Sound :=
  { assoc_pow := ⟨2, rfl⟩, block_pow := rfl, rows_pow := rfl, geometry := rfl, entries_wf := rfl
    entries_inside := by decide
    tags_distinct := by
      have h : ∀ row < 2, ∀ v < 4, ∀ w < 4, v = w ∨ ¬((fullRow.entry row v).valid = true
          ∧ (fullRow.entry row w).valid = true ∧ (fullRow.entry row v).tag = (fullRow.entry row w).tag) := by decide
      exact fun row v w hr hv hw h1 h2 h3 => (h row hr v hv w hw).resolve_right fun n => n ⟨h1, h2, h3⟩
    tags_narrow := by
      have h : ∀ row < 2, ∀ w < 4, (fullRow.entry row w).tag.toNat < 2 ^ 27 := by decide
      exact fun row w hr hw => h row hr w hw
    repl_sound := ⟨rfl, by decide⟩, fills_counted := rfl }

/-- Decoding of an encoding: a word row, a command, an event, each with operands at the ends of their ranges. -/
theorem test_witness_decode_encode :
    WellFormed (.ldmib { cond := 15, p := true, u := true, s := false, w := true, rn := 15, registerList := 0xFFFF }) = true
    ∧ WellFormed (.cpMcr { cond := 15, opc1 := 7, crn := 15, rt := 15, coproc := 15, opc2 := 7, crm := 15 }) = true
    ∧ WellFormed (.getAddr .l2 0 0) = true
    ∧ WellFormed (.insnExec 0xFFFFFFFF [] (Vector.replicate 16 0)) = true := by
  decide

/-- Re-encoding of a record: an immediate form, the extra register form with `w[11:8] = 0`, LDRD with `P = 1`. -/
theorem test_witness_rebuild :
    (classify 0xE5B12004#32).category = .regular
    ∧ (classify 0xE18120B3#32).category = .extra ∧ (classify 0xE18120B3#32).format = some .xlsReg
    ∧ (0xE18120B3#32).extractLsb' 8 4 = 0
    ∧ (classify 0xE1C120D8#32).id = .ldrdImm ∧ (0xE1C120D8#32).getLsbD 24 = true := by
  decide

/-- `cond` is not evaluated: an InsnExec that answers. -/
theorem test_witness_condition :
    ∃ t, exec (.insnExec 0x8000 (bytesOfWord 0x1E073E56) (oneReg 3 0x80000050)) .reset = .next t :=
  ⟨_, rfl⟩

/-- No block, and an instruction that is not BlockInit. -/
theorem test_witness_no_block :
    { State.reset with block := none }.block = none ∧ ∀ cfg, Instr.blockTeardown ≠ .blockInit cfg :=
  ⟨rfl, fun _ h => nomatch h⟩

/-- A step with an InsnExec event, and one with a command. -/
theorem test_witness_step :
    { State.reset with inbox := [.event 1#3 { bytes := bytesOfWord 0xE5912004 }] }.inbox
        = [.event 1#3 { bytes := bytesOfWord 0xE5912004 }]
    ∧ decode (.event 1#3 { bytes := bytesOfWord 0xE5912004 })
        = .instr (.ldrImm { cond := 14, p := true, u := true, w := false, rn := 1, rt := 2, imm12 := 4 })
    ∧ { State.reset with inbox := [.command 0b01_1000 {}] }.inbox = [.command 0b01_1000 {}]
    ∧ decode (.command 0b01_1000 {}) = .instr (.stats .dcache)
    ∧ ∀ a, (Request.command 0b01_1000 {}) ≠ .event 1#3 a :=
  ⟨rfl, by decide, rfl, by decide, fun _ h => nomatch h⟩

/-- Four bytes of an InsnExec event (vector K2). -/
theorem test_witness_little_endian :
    { State.reset with inbox := [.event 1#3 { bytes := [0x04, 0x20, 0x91, 0xE5] }] }.inbox
      = [.event 1#3 { bytes := [0x04, 0x20, 0x91, 0xE5] }] := rfl

/-- The ends of the reserved codes: `op` 10 and 15, `cache_select` 3, events 5 and 7, and an empty queue. -/
theorem test_witness_reserved :
    10 ≤ (0b00_1010#6).toNat % 16 ∧ 10 ≤ (0b10_1111#6).toNat % 16 ∧ (0b11_0000#6).toNat / 16 = 3
    ∧ 5 ≤ (0b101#3).toNat ∧ 5 ≤ (0b111#3).toNat ∧ State.reset.inbox = [] := by
  decide

/-- An MCR that is no cache-control operation: one field away from DCISW (section 4.5). -/
theorem test_witness_register_transfer :
    WellFormed (.cpMcr { cond := 14, opc1 := 0, crn := 7, rt := 0, coproc := 15, opc2 := 2, crm := 6 }) = true := by
  decide

/-- DCISW: row 255 and way 3, the last of the default D-cache; row 256; cache control disabled. -/
theorem test_witness_dcisw :
    Memory.wf .unlisted Block.reset.dcache.entries = true
    ∧ Block.reset.armEnable = true ∧ Block.reset.dcache.live = true
    ∧ ((oneReg 3 0xC0000FFE).get 3).toNat / 2 ^ 4 % 2 ^ 10 = 255 ∧ ((oneReg 3 0xC0000FFE).get 3).toNat / 2 ^ 30 = 3
    ∧ 255 < Block.reset.dcache.rows ∧ 3 < Block.reset.dcache.assoc
    ∧ ¬((oneReg 0 0x1000).get 0).toNat / 2 ^ 4 % 2 ^ 10 < Block.reset.dcache.rows
    ∧ ¬{ Block.reset with armEnable := false }.armEnable = true := by
  decide

/-- ICIALLU: cache control enabled and not, the I-cache live and torn down. -/
theorem test_witness_iciallu :
    Block.reset.icache.Sound ∧ Block.reset.armEnable = true ∧ Block.reset.icache.live = true
    ∧ ¬{ Block.reset with armEnable := false }.armEnable = true
    ∧ ¬{ Block.reset.icache with live := false }.live = true :=
  ⟨test_reset_sound.icache_sound, rfl, rfl, by decide, by decide⟩

/-- A good configuration, the smallest one, and a bad one. -/
theorem test_witness_init :
    GoodConfig smallConfig ∧ GoodConfig { smallConfig with size := 1, assoc := 1, block := 1 }
    ∧ ¬GoodConfig { smallConfig with size := 32 } := by
  simp only [← configValid_iff]
  decide

/-- The three configurations of a good BlockInit, and one bad. -/
theorem test_witness_block_init :
    (GoodConfig Config.standard.icache ∧ GoodConfig Config.standard.dcache ∧ GoodConfig Config.standard.l2)
    ∧ ¬GoodConfig { Config.firstLevel with assoc := 3 } := by
  simp only [← configValid_iff]
  decide

/-- Loads and stores: a sound cache, torn down; a line it holds; a line it does not; both allocation policies. -/
theorem test_witness_access :
    fullRow.Sound ∧ { fullRow with live := false }.live = false ∧ fullRow.live = true
    ∧ (0x90#32).toNat / 2 ^ fullRow.blockOffsetBits % fullRow.rows = 1
    ∧ (∃ w < fullRow.assoc, fullRow.entry 1 w
        = { tag := 0x90#32 >>> (fullRow.blockOffsetBits + fullRow.rowBits), valid := true })
    ∧ (¬∃ w < fullRow.assoc, fullRow.entry 1 w
        = { tag := 0xB0#32 >>> (fullRow.blockOffsetBits + fullRow.rowBits), valid := true })
    ∧ fullRow.alloc = .writeAllocate ∧ (Cache.firstLevelReset 1).alloc = .noWriteAllocate :=
  ⟨test_full_row_sound, rfl, rfl, by decide, by decide, by decide, rfl, rfl⟩

/-- Maintenance and probes: the last entry of the cache is in range and valid, the next row and the next way are not. -/
theorem test_witness_maintenance :
    Memory.wf .unlisted fullRow.entries = true ∧ fullRow.live = true
    ∧ 1 < fullRow.rows ∧ 3 < fullRow.assoc ∧ (fullRow.entry 1 3).valid = true
    ∧ ¬2 < fullRow.rows ∧ ¬4 < fullRow.assoc ∧ (fullRow.entry 0 0).valid = false
    ∧ { fullRow with live := false }.live = false := by
  decide

/-- A cache with a tag shift of 32, so that every tag is 0. -/
theorem test_witness_wide_rows :
    ∃ k : Cache, Cache.init { smallConfig with size := 2 ^ 32, assoc := 1, block := 1 } 0 = some k ∧ k.Sound
      ∧ 32 ≤ k.blockOffsetBits + k.rowBits :=
  ⟨_, rfl, Cache.init_sound (cfg := { smallConfig with size := 2 ^ 32, assoc := 1, block := 1 }) (seed := 0) rfl, by decide⟩

/-- A valid entry of a row that has an address. -/
theorem test_witness_probe :
    fullRow.Sound ∧ fullRow.isBlockValid 1 3 = true ∧ 1 * 2 ^ fullRow.blockOffsetBits < 2 ^ 32 :=
  ⟨test_full_row_sound, by decide, by decide⟩

/-- Two addresses of one line of a live, sound cache. -/
theorem test_witness_same_line :
    fullRow.Sound ∧ fullRow.live = true ∧ (0xB0#32).toNat / fullRow.blockSize = (0xBF#32).toNat / fullRow.blockSize :=
  ⟨test_full_row_sound, rfl, by decide⟩

/-- As many distinct lines of one row as it has ways. -/
theorem test_witness_no_eviction :
    smallCache.Sound ∧ smallCache.live = true
    ∧ [0x30#32, 0x50, 0x70, 0x90].Pairwise (fun a a' =>
        ¬(smallCache.rowOf a = smallCache.rowOf a' ∧ smallCache.tagOf a = smallCache.tagOf a'))
    ∧ ∀ row, ([0x30#32, 0x50, 0x70, 0x90].filter fun a => smallCache.rowOf a == row).length ≤ smallCache.assoc :=
  ⟨test_small_sound, rfl, by decide, fun _ => List.length_filter_le _ _⟩

/-- More fills than the row has ways; the oldest that stays, and the newest. -/
theorem test_witness_fifo :
    smallCache.Sound ∧ smallCache.repl = .roundRobin [] ∧ 1 < smallCache.rows ∧ Memory.read 0 [] 1 = 0
    ∧ (∀ w < smallCache.assoc, (smallCache.entry 1 w).valid = false)
    ∧ [1#32, 2, 3, 4, 5].length ≤ 1 + smallCache.assoc ∧ 4 < [1#32, 2, 3, 4, 5].length :=
  ⟨test_small_sound, rfl, by decide, rfl, by decide, by decide, by decide⟩

/-- A RANDOM cache with no victim chosen yet; the largest `assoc` of the law. -/
theorem test_witness_random :
    (Cache.firstLevelReset 1).repl = .random (lcgSeed 1 0) ∧ (Cache.firstLevelReset 1).assoc ∣ 16 ∧ 16 ∣ 16 :=
  ⟨by decide, by decide, by decide⟩

/-- A hit, and an instruction after which a cache has counted no eviction. -/
theorem test_witness_hit :
    fullRow.live = true
    ∧ (∃ w < fullRow.assoc, fullRow.entry (fullRow.rowOf 0x90) w = { tag := fullRow.tagOf 0x90, valid := true })
    ∧ Block.reset.Sound ∧ createsCache (.load .dcache 0) = false
    ∧ after (.load .dcache 0) .reset (fun b _ => b.dcache.counters.evictions = 0) = true :=
  ⟨rfl, by decide, test_reset_sound, rfl, by decide⟩

/-- The instruction sizes next to four. -/
theorem test_witness_wrong_size : [0#8, 0, 0].length ≠ 4 ∧ [0#8, 0, 0, 0, 0].length ≠ 4 := by
  decide

/-- Memory events: no memory operation; the ends of `.text`; the addresses next to them. -/
theorem test_witness_mem_access :
    Block.reset.cur.direction = .noDirection
    ∧ InText .reset 0x8000 ∧ InText .reset 0x8FFF
    ∧ (classify 0xE5912004).direction ≠ .noDirection ∧ ¬InText .reset 0x7FFF ∧ ¬InText .reset 0x9000 := by
  decide

/-- Plans: the last word in range, the first row, way and word out of range, a torn-down cache, a fired injector. -/
theorem test_witness_load_plan :
    Block.reset.injState = .armed ∧ (Block.reset.cache .dcache).live = true
    ∧ (255 < Block.reset.dcache.rows ∧ 3 < Block.reset.dcache.assoc ∧ 7 < Block.reset.dcache.blockSize / 4)
    ∧ (¬256 < Block.reset.dcache.rows ∧ ¬4 < Block.reset.dcache.assoc ∧ ¬8 < Block.reset.dcache.blockSize / 4)
    ∧ (Block.reset.teardown.cache .dcache).live = false
    ∧ { Block.reset with injState := .fired }.injState = .fired := by
  decide

/-- A block with its three caches torn down and a memory operation in `cur`; a word row. -/
theorem test_witness_after_teardown :
    Block.reset.teardown.icache.live = false ∧ Block.reset.teardown.dcache.live = false
    ∧ Block.reset.teardown.l2.live = false ∧ isWordRow (.notMemDataProc { cond := 14, body := 0x1A00000 }) = true
    ∧ { Block.reset.teardown with cur := classify 0xE5912004 }.cur.direction ≠ .noDirection
    ∧ ¬InText { Block.reset.teardown with cur := classify 0xE5912004 } 0x9000 := by
  decide

/-- The injector: an instruction that is not BlockInit and makes the plan due, one instruction too early, one after
firing. -/
theorem test_witness_injector :
    (∀ cfg, Instr.notMemDataProc { cond := 14, body := 0x1A00000 } ≠ .blockInit cfg)
    ∧ ([(InjState.armed, 1), (.armed, 2), (.fired, 1)].map fun x =>
        after (.notMemDataProc { cond := 14, body := 0x1A00000 })
          { withBlock (fun b => { b with
              injState := x.1
              plan := some { sleepCycles := x.2, target := .l2, row := 5, way := 1, wordInBlock := 2 } }) with
            insnVaddr := 0x8FFF }
          (fun b out => b.insnCount = 1 && decide (b.injState = .fired) && out != []))
      = [true, false, false] :=
  ⟨fun _ h => (nomatch h), by decide⟩

/-- A swap on a cold line (vector A3). -/
theorem test_witness_swap :
    Block.reset.dcache.Sound ∧ Block.reset.dcache.live = true ∧ Block.reset.dcache.alloc = .noWriteAllocate
    ∧ { Block.reset with cur := classify 0xE1012093 }.cur.direction = .loadStore
    ∧ ¬InText { Block.reset with cur := classify 0xE1012093 } 0x20000
    ∧ ∀ w < Block.reset.dcache.assoc, Block.reset.dcache.entry (Block.reset.dcache.rowOf 0x20000) w
        ≠ { tag := Block.reset.dcache.tagOf 0x20000, valid := true } :=
  ⟨test_reset_sound.dcache_sound, rfl, rfl, by decide, by decide, by decide⟩

/-- The invariants of a step: a sound machine, and a step that answers. -/
theorem test_witness_soundness :
    State.Sound { State.reset with inbox := [.command 0b01_0001 { addr := 0x1000 }] }
    ∧ ∃ t, step { State.reset with inbox := [.command 0b01_0001 { addr := 0x1000 }] } = .next t :=
  ⟨fun b h => (by cases h; exact test_reset_sound), _, rfl⟩

/-- A machine driven by an event, with the counter laws. -/
theorem test_witness_counter_laws :
    State.CounterLaws { State.reset with inbox := [.event 1#3 { vaddr := 0x8000, bytes := bytesOfWord 0xE5912004 }] }
    ∧ State.DrivenByEvents { State.reset with inbox := [.event 1#3 { vaddr := 0x8000, bytes := bytesOfWord 0xE5912004 }] }
    ∧ ∃ t, step { State.reset with inbox := [.event 1#3 { vaddr := 0x8000, bytes := bytesOfWord 0xE5912004 }] } = .next t :=
  ⟨fun b h => (by cases h; exact fun _ _ _ => ⟨rfl, rfl, rfl, rfl, rfl, rfl, rfl⟩), trivial, _, rfl⟩

/-- A sound machine with the seed law, and a step that answers. -/
theorem test_witness_seed_law :
    State.Sound { State.reset with inbox := [.command 0b01_0001 { addr := 0x1000 }] }
    ∧ State.SeedLaw { State.reset with inbox := [.command 0b01_0001 { addr := 0x1000 }] }
    ∧ ∃ t, step { State.reset with inbox := [.command 0b01_0001 { addr := 0x1000 }] } = .next t :=
  ⟨test_witness_soundness.1, fun b h => (by cases h; intro c seed hc; cases c <;> cases hc <;> decide),
    test_witness_soundness.2⟩

/-- A stored plan at the end of its range, kept by an instruction that is not an engine `init`. -/
theorem test_witness_plan_in_range :
    (∀ c cfg, Instr.blockTeardown ≠ .init c cfg)
    ∧ State.PlanInRange (withBlock fun b => { b with plan := some { sleepCycles := 0, target := .l2, row := 2047, way := 7
                                                                    wordInBlock := 7 } })
    ∧ ∃ t, exec .blockTeardown (withBlock fun b => { b with plan := some { sleepCycles := 0, target := .l2, row := 2047
                                                                           way := 7, wordInBlock := 7 } }) = .next t :=
  ⟨fun _ _ h => (nomatch h), fun b h => (by cases h; intro p hp; cases hp; decide), _, rfl⟩

/-- An instruction that answers with a block and is neither `init` nor BlockInit. -/
theorem test_witness_no_creation :
    createsCache (.store .l2 0x1000) = false
    ∧ ∃ t b', exec (.store .l2 0x1000) .reset = .next t ∧ t.block = some b' :=
  ⟨rfl, _, _, rfl, rfl⟩

/-- An entry that loses its valid bit. -/
theorem test_witness_cleared :
    (withD fullRow).block = some { Block.reset with dcache := fullRow }
    ∧ Block.Sound { Block.reset with dcache := fullRow }
    ∧ (fullRow.entry 1 3).valid = true ∧ 1 < fullRow.rows ∧ 3 < fullRow.assoc
    ∧ after (.invalidateBlock .dcache 1 3) (withD fullRow) (fun b _ => !(b.dcache.entry 1 3).valid) = true :=
  ⟨rfl, ⟨test_reset_sound.icache_sound, test_full_row_sound, test_reset_sound.l2_sound, test_reset_sound.cur_sound⟩,
    by decide, by decide, by decide, by decide⟩

/-- Two payloads that differ only in the bits DCISW does not read, and two register files for another instruction. -/
theorem test_witness_guest_registers :
    (∀ v bytes g, Instr.dcisw { cond := 14, rt := 0 } ≠ .insnExec v bytes g)
    ∧ (0x80000050#32).extractLsb' 30 2 = (0xBFFFC05F#32).extractLsb' 30 2
    ∧ (0x80000050#32).extractLsb' 4 10 = (0xBFFFC05F#32).extractLsb' 4 10
    ∧ (∃ t, exec (.dcisw { cond := 14, rt := 0 }) { State.reset with gpr := oneReg 0 0x80000050 } = .next t)
    ∧ ∃ t, exec (.stats .l2) .reset = .next t :=
  ⟨fun _ _ _ h => (nomatch h), by decide, by decide, ⟨_, rfl⟩, _, rfl⟩

/-- The ends of the four fields of a DCISW payload. -/
theorem test_witness_payload : 3 < 4 ∧ 1023 < 1024 ∧ 65535 < 2 ^ 16 ∧ 15 < 16 := by
  decide

end Sys2Proof.Machine
end

/-! ### The scope of a step (00_scope.md R11, R12): every instruction completes, and the step runs the decoded one -/

namespace Sys2Proof.Machine

/-- An operation of an existing block always answers; only `block` changes and `outputs` grows (R300). -/
theorem State.onBlock_completes {s : State} {b : Block} (hb : s.block = some b) (op : Block → Block × List Output) :
    ∃ (t : State) (new : List Output), s.onBlock op = .next t ∧ t.outputs = s.outputs ++ new ∧ t.inbox = s.inbox :=
  ⟨_, (op b).2, State.onBlock_some s b op hb, rfl, rfl⟩

/-- The word rows, the engine commands and the events that leave the port lines alone act through the block only: the
two other instructions are BlockInit, which builds the block, and InsnExec, which first sets the port lines. -/
theorem exec_eq_onBlock {i : Instr} (hinit : ∀ cfg, i ≠ .blockInit cfg) (hinsn : ∀ v bytes g, i ≠ .insnExec v bytes g)
    (s : State) : ∃ op, exec i s = s.onBlock op := by
  cases i with
  | blockInit cfg => exact absurd rfl (hinit cfg)
  | insnExec v bytes g => exact absurd rfl (hinsn v bytes g)
  | _ => exact ⟨_, rfl⟩

/-- BlockInit answers whether or not the configuration is good (R380). -/
theorem execBlockInit_completes (cfg : BlockConfig) (s : State) :
    ∃ (t : State) (new : List Output),
      execBlockInit cfg s = .next t ∧ t.outputs = s.outputs ++ new ∧ t.inbox = s.inbox := by
  cases hi : Block.init cfg with
  | some b => exact ⟨{ s with block := some b }, [], by simp only [execBlockInit, hi], by simp, rfl⟩
  | none =>
    exact ⟨{ s with block := none, outputs := s.outputs ++ [.configError] }, [.configError],
      by simp only [execBlockInit, hi], rfl, rfl⟩

/-- InsnExec of any number of bytes answers where a block exists (R91, R301). -/
theorem execInsnExec_completes {s : State} {b : Block} (hb : s.block = some b) (v : Word) (bytes : List Byte)
    (g : Vector Word 16) :
    ∃ (t : State) (new : List Output),
      execInsnExec v bytes g s = .next t ∧ t.outputs = s.outputs ++ new ∧ t.inbox = s.inbox := by
  rcases execInsnExec_cases v bytes g s with ⟨b0, b1, b2, b3, _, hword⟩ | ⟨_, hsize⟩
  · rw [hword]
    exact State.onBlock_completes (s := { s with insnVaddr := v, gpr := g }) hb _
  · rw [hsize]
    exact State.onBlock_completes (s := { s with insnVaddr := v, gpr := g, freeCount := s.freeCount + 1 }) hb _

/-- Settles O8: BlockInit and InsnExec by their own lemmas, every other instruction as an operation of the block. -/
theorem everyInstructionCompletesOnABlock : Obligations.EveryInstructionCompletesOnABlock := by
  intro i s b hb
  by_cases hinit : ∃ cfg, i = .blockInit cfg
  · obtain ⟨cfg, rfl⟩ := hinit
    exact execBlockInit_completes cfg s
  by_cases hinsn : ∃ v bytes g, i = .insnExec v bytes g
  · obtain ⟨v, bytes, g, rfl⟩ := hinsn
    exact execInsnExec_completes hb v bytes g
  obtain ⟨op, hop⟩ := exec_eq_onBlock (fun cfg h => hinit ⟨cfg, h⟩) (fun v bytes g h => hinsn ⟨v, bytes, g, h⟩) s
  rw [hop]
  exact State.onBlock_completes hb op

/-- The step on a request that decodes takes it and executes the instruction (R12). -/
theorem step_of_decode {s : State} {q : Request} {rest : List Request} {i : Instr} (hq : s.inbox = q :: rest)
    (hd : decode q = .instr i) : step s = exec i (s.accept q rest) := by
  simp only [step, hq, hd]

/-- A request that is no InsnExec event leaves the port lines as they are. -/
theorem State.accept_of_not_insnExec (s : State) {q : Request} (rest : List Request)
    (h : ∀ a, q ≠ .event 1#3 a) : s.accept q rest = { s with inbox := rest } := by
  cases q with
  | command code a => exact State.accept_command s code a rest
  | event code a => exact State.accept_event s code a rest fun hc => h a (by rw [hc])

/-- Settles O10: the step executes on the state that `State.accept` gives, which is known for both kinds of request. -/
theorem stepRunsDecodedInstruction : Obligations.StepRunsDecodedInstruction := by
  intro s q rest i hq hd
  rw [step_of_decode hq hd]
  constructor
  · rintro a rfl
    rw [State.accept_insnExec]
  · intro h
    rw [State.accept_of_not_insnExec s rest h]

end Sys2Proof.Machine

/-! ### Reset (10_state.md section 4) and the structural invariants of every step -/

namespace Sys2Proof.Machine

/-- Reset is `BlockInit` of the standard block (R50, R380). -/
theorem init_standard : Block.init Config.standard = some Block.reset := rfl

/-- Settles O48: the block is `Block.reset`, and no array of it lists an entry. -/
theorem resetValues : Obligations.ResetValues := by
  refine ⟨Block.reset, rfl, rfl, rfl, init_standard, ?entries, ?counters, ?live, rfl, rfl, rfl, rfl, rfl, rfl, rfl, rfl,
    rfl, rfl⟩
  case entries =>
    intro c row way
    cases c <;> rfl
  case counters =>
    intro c
    cases c <;> rfl
  case live =>
    intro c
    cases c <;> rfl

/-- With every counter 0 the counter laws hold (R179, R312). -/
theorem Block.reset_counterLaws : Block.reset.CounterLaws :=
  fun _ _ _ => ⟨rfl, rfl, rfl, rfl, rfl, rfl, rfl⟩

/-- No victim selected leaves the seed as it was given (R136). -/
theorem lcgSeed_zero (seed : Word) : lcgSeed seed 0 = seed := by
  simp [lcgSeed]

theorem Block.reset_seedLaw : Block.reset.SeedLaw := by
  intro c seed h
  cases c with
  | icache => cases h; exact (lcgSeed_zero _).symm
  | dcache => cases h; exact (lcgSeed_zero _).symm
  | l2 => cases h

/-- Settles O49: the one block of the state after reset meets each invariant. -/
theorem resetMeetsTheInvariants : Obligations.ResetMeetsTheInvariants := by
  refine ⟨?sound, ?counterLaws, ?seedLaw, ?planInRange⟩ <;> rintro b ⟨⟩
  case sound => exact Block.init_sound init_standard
  case counterLaws => exact Block.reset_counterLaws
  case seedLaw => exact Block.reset_seedLaw
  case planInRange =>
    intro p hp
    cases hp

/-! ### What an instruction that creates no cache makes of the block -/

/-- The instruction is processed by the driver as InsnExec of one word (R301): a word row, or the event itself. -/
def IsInsnExec (i : Instr) : Prop := isWordRow i = true ∨ ∃ v bytes g, i = .insnExec v bytes g

/-- The effects on block `b` of the instructions `i` that create no cache, one per operation of the block. -/
inductive Block.Becomes (i : Instr) (b : Block) : Block → Prop where
  | runWord (r : Classification) (v : Word) (g : Vector Word 16) (hi : IsInsnExec i) (hr : r.Sound) :
    Becomes i b (b.runWord r v g).1
  | wrongSize (cond : BitVec 4) (v : Word) : Becomes i b (b.wrongSize cond v).1
  | memAccess (v : Word) (dir : AccessDir) : Becomes i b (b.memAccess v dir)
  | loadPlan (n : Nat) (name : CacheName) (row way word : Nat) : Becomes i b (b.loadPlan n name row way word).1
  | teardown : Becomes i b b.teardown
  | cacheLoad (c : CacheId) (a : Word) : Becomes i b (b.withCache c ((b.cache c).load a).2)
  | cacheStore (c : CacheId) (a : Word) : Becomes i b (b.withCache c ((b.cache c).store a).2)
  | cacheInvalidateBlock (c : CacheId) (row way : Nat) (hi : i = .invalidateBlock c row way) :
    Becomes i b (b.withCache c ((b.cache c).invalidateBlock row way))
  | cacheInvalidateAll (c : CacheId) (hi : i = .invalidateAll c) :
    Becomes i b (b.withCache c (b.cache c).invalidateAll)
  | cacheTeardown (c : CacheId) : Becomes i b (b.withCache c (b.cache c).teardown)
  | probe : Becomes i b b

/-- An instruction that creates no cache acts on the block by one of the block's operations. -/
theorem exec_becomes {i : Instr} {s t : State} {b : Block} (hb : s.block = some b) (h : exec i s = .next t)
    (hi : createsCache i = false) : ∃ b', t.block = some b' ∧ b.Becomes i b' := by
  rcases exec_cases hb h with ⟨r, hr, rfl⟩ | ⟨v, b0, b1, b2, b3, g, rfl, rfl⟩ | ⟨v, bytes, g, -, -, rfl⟩
    | ⟨v, dir, -, rfl⟩ | ⟨n, name, row, way, word, -, rfl⟩ | ⟨-, rfl⟩ | ⟨cfg, rfl, -⟩ | ⟨c, cfg, rfl, -⟩
    | ⟨c, a, -, rfl⟩ | ⟨c, a, -, rfl⟩ | ⟨c, row, way, hinv, rfl⟩ | ⟨c, hinv, rfl⟩ | ⟨c, -, rfl⟩ | ⟨o, -, rfl, -⟩
  · exact ⟨_, rfl, .runWord r _ _ (.inl (by rw [← wordRecord_isSome, hr]; rfl)) (wordRecord_sound hr)⟩
  · exact ⟨_, rfl, .runWord _ v g (.inr ⟨_, _, _, rfl⟩) (classify_sound _)⟩
  · exact ⟨_, rfl, .wrongSize _ v⟩
  · exact ⟨_, rfl, .memAccess v dir⟩
  · exact ⟨_, rfl, .loadPlan n name row way word⟩
  · exact ⟨_, rfl, .teardown⟩
  · cases hi
  · cases hi
  · exact ⟨_, rfl, .cacheLoad c a⟩
  · exact ⟨_, rfl, .cacheStore c a⟩
  · exact ⟨_, rfl, .cacheInvalidateBlock c row way hinv⟩
  · exact ⟨_, rfl, .cacheInvalidateAll c hinv⟩
  · exact ⟨_, rfl, .cacheTeardown c⟩
  · exact ⟨b, hb, .probe⟩

/-- The two kinds of instruction that create a cache. -/
theorem createsCache_iff (i : Instr) :
    createsCache i = true ↔ (∃ c cfg, i = .init c cfg) ∨ ∃ cfg, i = .blockInit cfg := by
  cases i <;> simp [createsCache]

/-- Where no block exists, BlockInit alone answers (R383). -/
theorem exec_next_block {i : Instr} {s t : State} (hinit : ∀ cfg, i ≠ .blockInit cfg) (h : exec i s = .next t) :
    ∃ b, s.block = some b := by
  by_cases hinsn : ∃ v bytes g, i = .insnExec v bytes g
  · obtain ⟨v, bytes, g, rfl⟩ := hinsn
    rcases execInsnExec_cases v bytes g s with ⟨b0, b1, b2, b3, -, e⟩ | ⟨-, e⟩ <;> rw [exec, e] at h
    · exact (State.onBlock_next h).imp fun _ hb => hb.1
    · exact (State.onBlock_next h).imp fun _ hb => hb.1
  · obtain ⟨op, hop⟩ := exec_eq_onBlock hinit (fun v bytes g hi => hinsn ⟨v, bytes, g, hi⟩) s
    rw [hop] at h
    exact (State.onBlock_next h).imp fun _ hb => hb.1

/-! ### Soundness -/

/-- Every effect of an instruction that creates no cache keeps a block sound. -/
theorem Block.Becomes.sound {i : Instr} {b b' : Block} (h : b.Becomes i b') (hb : b.Sound) : b'.Sound := by
  cases h with
  | runWord r v g hi hr => exact hb.runWord hr v g
  | wrongSize cond v => exact hb.wrongSize cond v
  | memAccess v dir => exact hb.memAccess v dir
  | loadPlan n name row way word => exact hb.loadPlan n name row way word
  | teardown => exact hb.teardown
  | cacheLoad c a => exact hb.withCache c ((hb.cache c).load a)
  | cacheStore c a => exact hb.withCache c ((hb.cache c).store a)
  | cacheInvalidateBlock c row way => exact hb.withCache c ((hb.cache c).invalidateBlock row way)
  | cacheInvalidateAll c => exact hb.withCache c (hb.cache c).invalidateAll
  | cacheTeardown c => exact hb.withCache c (hb.cache c).teardown
  | probe => exact hb

/-- A state is sound if its block is. -/
theorem State.sound_of_block {s : State} {b : Block} (hs : s.block = some b) (hb : b.Sound) : s.Sound := by
  intro b' hb'
  obtain rfl : b = b' := Option.some.inj (hs.symm.trans hb')
  exact hb

/-- The engine command `init` puts a sound cache into a sound block, or leaves the block as it is (R10, R130). -/
theorem execInit_sound {c : CacheId} {cfg : CacheConfig} {s t : State} (hs : s.Sound)
    (h : execInit c cfg s = .next t) : t.Sound := by
  obtain ⟨b, hb, rfl⟩ := State.onBlock_next h
  refine State.sound_of_block rfl ?_
  split
  · rename_i k hk
    exact (hs b hb).withCache c (Cache.init_sound hk)
  · exact hs b hb

/-- BlockInit leaves a sound block or none, whatever stood before (R380, R383). -/
theorem execBlockInit_sound {cfg : BlockConfig} {s t : State} (h : execBlockInit cfg s = .next t) : t.Sound := by
  unfold execBlockInit at h
  split at h
  · rename_i b hb
    cases h
    exact State.sound_of_block rfl (Block.init_sound hb)
  · cases h
    intro b hb
    cases hb

/-- Every instruction that answers keeps the machine sound. -/
theorem exec_sound {i : Instr} {s t : State} (hs : s.Sound) (h : exec i s = .next t) : t.Sound := by
  cases hi : createsCache i with
  | true =>
    rcases (createsCache_iff i).1 hi with ⟨c, cfg, rfl⟩ | ⟨cfg, rfl⟩
    · exact execInit_sound hs h
    · exact execBlockInit_sound h
  | false =>
    have hinit : ∀ cfg, i ≠ .blockInit cfg := by
      rintro cfg rfl
      cases hi
    obtain ⟨b, hb⟩ := exec_next_block hinit h
    obtain ⟨b', hb', hbb'⟩ := exec_becomes hb h hi
    exact State.sound_of_block hb' (hbb'.sound (hs b hb))

/-- Settles O50: an empty queue and a reserved code leave the block as it is, and every instruction keeps it sound. -/
theorem stepKeepsSoundness : Obligations.StepKeepsSoundness := by
  intro s t hs h
  rcases step_cases h with ⟨-, rfl⟩ | ⟨q, rest, -, -, rfl⟩ | ⟨q, rest, i, -, -, hexec⟩
  · exact hs
  · exact hs
  · refine exec_sound (fun b hb => hs b ?_) hexec
    rwa [State.accept_block] at hb

end Sys2Proof.Machine

/-! ### What a cache keeps and what it only gains (10_state.md section 1, R20 to R25) -/

namespace Sys2Proof.Machine

/-- None of the six counters is smaller in `k'` than in `k` (R24). -/
structure Counters.Le (k k' : Counters) : Prop where
  loadHits         : k.loadHits ≤ k'.loadHits
  loadMisses       : k.loadMisses ≤ k'.loadMisses
  storeHits        : k.storeHits ≤ k'.storeHits
  storeMisses      : k.storeMisses ≤ k'.storeMisses
  compulsoryMisses : k.compulsoryMisses ≤ k'.compulsoryMisses
  evictions        : k.evictions ≤ k'.evictions

theorem Counters.Le.refl (k : Counters) : k.Le k := by
  constructor <;> exact le_rfl

theorem Counters.Le.trans {k k' k'' : Counters} (h : k.Le k') (h' : k'.Le k'') : k.Le k'' where
  loadHits := h.loadHits.trans h'.loadHits
  loadMisses := h.loadMisses.trans h'.loadMisses
  storeHits := h.storeHits.trans h'.storeHits
  storeMisses := h.storeMisses.trans h'.storeMisses
  compulsoryMisses := h.compulsoryMisses.trans h'.compulsoryMisses
  evictions := h.evictions.trans h'.evictions

/-- The replacement state is that of a ROUND_ROBIN cache (R23). -/
def ReplState.IsRoundRobin (r : ReplState) : Prop := ∃ m, r = .roundRobin m

/-- `c'` is a later state of the cache `c`: of its fields only entries, replacement state, counters and liveness have
moved, the policy stayed, no counter fell, and what was torn down stayed so. -/
structure Cache.Advances (c c' : Cache) : Prop where
  config : c' = { c with entries := c'.entries, repl := c'.repl, counters := c'.counters, live := c'.live }
  policy : c'.repl.IsRoundRobin ↔ c.repl.IsRoundRobin
  counters : c.counters.Le c'.counters
  dead : c.live = false → c'.live = false

theorem Cache.Advances.refl (c : Cache) : c.Advances c := ⟨rfl, Iff.rfl, .refl _, id⟩

theorem Cache.Advances.trans {c c' c'' : Cache} (h : c.Advances c') (h' : c'.Advances c'') : c.Advances c'' where
  config := by
    have hconfig := h'.config
    rw [h.config] at hconfig
    exact hconfig
  policy := h'.policy.trans h.policy
  counters := h.counters.trans h'.counters
  dead := h'.dead ∘ h.dead

/-- Counting alone advances a cache. -/
theorem Cache.advances_counted (c : Cache) {k : Counters} (hk : c.counters.Le k) : c.Advances { c with counters := k } :=
  ⟨rfl, Iff.rfl, hk, id⟩

/-- Victim selection stays with the policy (R135, R136). -/
theorem Cache.victimRepl_isRoundRobin (c : Cache) (row : Nat) :
    (c.victimRepl row).IsRoundRobin ↔ c.repl.IsRoundRobin := by
  unfold Cache.victimRepl ReplState.IsRoundRobin
  cases c.repl <;> simp

theorem Cache.filledRepl_isRoundRobin (c : Cache) (row : Nat) :
    (c.filledRepl row).IsRoundRobin ↔ c.repl.IsRoundRobin := by
  unfold Cache.filledRepl
  split
  · rfl
  · exact c.victimRepl_isRoundRobin row

/-- A fill advances a cache: it counts one compulsory miss or one eviction (R134). -/
theorem Cache.advances_fill (c : Cache) (row : Nat) (tag : Word) : c.Advances (c.fill row tag) := by
  rw [Cache.fill_eq]
  refine ⟨rfl, c.filledRepl_isRoundRobin row, ?counters, id⟩
  case counters =>
    dsimp only
    split <;> constructor <;> simp

theorem Cache.advances_load (c : Cache) (a : Word) : c.Advances (c.load a).2 := by
  rcases c.load_cases a with ⟨-, e⟩ | ⟨-, -, e⟩ | ⟨-, -, e⟩ <;> rw [e]
  · exact .refl c
  · exact c.advances_counted (by constructor <;> simp)
  · exact (c.advances_counted (by constructor <;> simp)).trans (Cache.advances_fill _ _ _)

theorem Cache.advances_store (c : Cache) (a : Word) : c.Advances (c.store a).2 := by
  rcases c.store_cases a with ⟨-, e⟩ | ⟨-, -, e⟩ | ⟨-, -, -, e⟩ | ⟨-, -, -, e⟩ <;> rw [e]
  · exact .refl c
  · exact c.advances_counted (by constructor <;> simp)
  · exact c.advances_counted (by constructor <;> simp)
  · exact (c.advances_counted (by constructor <;> simp)).trans (Cache.advances_fill _ _ _)

theorem Cache.advances_invalidateBlock (c : Cache) (row way : Nat) : c.Advances (c.invalidateBlock row way) := by
  rcases c.invalidateBlock_cases row way with ⟨-, -, -, e⟩ | ⟨-, e⟩ <;> rw [e]
  · exact ⟨rfl, Iff.rfl, .refl _, id⟩
  · exact .refl c

theorem Cache.advances_invalidateAll (c : Cache) : c.Advances c.invalidateAll := by
  rcases c.invalidateAll_cases with ⟨-, e⟩ | ⟨-, e⟩ <;> rw [e]
  · exact ⟨rfl, Iff.rfl, .refl _, id⟩
  · exact .refl c

theorem Cache.advances_teardown (c : Cache) : c.Advances c.teardown := ⟨rfl, Iff.rfl, .refl _, fun _ => rfl⟩

/-! ### What an operation of the block does to each cache -/

/-- A relation that a replacement of one cache respects, and that is reflexive, holds for all three. -/
theorem Block.withCache_cache_rel {R : Cache → Cache → Prop} (hrefl : ∀ k, R k k) {b : Block} {c : CacheId} {v : Cache}
    (h : R (b.cache c) v) (c' : CacheId) : R (b.cache c') ((b.withCache c v).cache c') := by
  by_cases hc : c' = c
  · subst hc
    rwa [Block.cache_withCache_self]
  · rw [Block.cache_withCache_ne b c c' v hc]
    exact hrefl _

/-- The fetch does nothing to the block, or counts and loads, and then at most fires the injector (R302, R333). -/
theorem Block.fetch_block (b : Block) (v : Word) :
    (b.fetch v).1 = b ∨ ∃ inj, (b.fetch v).1 = { countedFetch b v with injState := inj } := by
  rw [Block.fetch_eq]
  unfold fetchEffect
  split
  · right
    split
    · split
      · exact ⟨.fired, rfl⟩
      · exact ⟨(countedFetch b v).injState, rfl⟩
    · exact ⟨(countedFetch b v).injState, rfl⟩
  · exact .inl rfl

/-- The fetch does to each cache nothing, or one load of the address (R172, R302). -/
theorem Block.fetch_cache (b : Block) (v : Word) (c : CacheId) :
    (b.fetch v).1.cache c = b.cache c ∨ (b.fetch v).1.cache c = ((b.cache c).load v).2 := by
  rcases b.fetch_block v with e | ⟨inj, e⟩ <;> rw [e]
  · exact .inl rfl
  · cases c with
    | icache => exact .inr rfl
    | dcache => exact .inl rfl
    | l2 => exact (ite_eq_or_eq _ _ _).symm

/-- The cache-control part touches the D-cache under DCISW and the I-cache under ICIALLU, and nothing else (R303, R304). -/
theorem Block.cacheControl_block (b : Block) (g : Vector Word 16) :
    (b.cur.cacheOp = .dcisw ∧ ∃ row way, b.cacheControl g = b.withCache .dcache (b.dcache.invalidateBlock row way))
    ∨ (b.cur.cacheOp = .iciallu ∧ b.cacheControl g = b.withCache .icache b.icache.invalidateAll)
    ∨ b.cacheControl g = b := by
  rcases b.cacheControl_cases g with ⟨-, hop, e⟩ | ⟨-, hop, e⟩ | ⟨-, e⟩
  · exact .inl ⟨hop, _, _, e⟩
  · exact .inr (.inl ⟨hop, e⟩)
  · exact .inr (.inr e)

/-- A memory event does to each cache nothing, one load or one store of the address (R305). -/
theorem Block.memAccess_cache (b : Block) (v : Word) (dir : AccessDir) (c : CacheId) :
    (b.memAccess v dir).cache c = b.cache c ∨ (b.memAccess v dir).cache c = ((b.cache c).load v).2
    ∨ (b.memAccess v dir).cache c = ((b.cache c).store v).2 := by
  rcases b.memAccess_cases v dir with ⟨-, e⟩ | ⟨-, -, -, e⟩ | ⟨-, -, -, e⟩ <;> rw [e]
  · exact .inl rfl
  · cases c with
    | icache => exact .inl rfl
    | dcache => exact .inr (.inr rfl)
    | l2 => exact (ite_eq_or_eq _ _ _).symm.imp_right .inr
  · cases c with
    | icache => exact .inl rfl
    | dcache => exact .inr (.inl rfl)
    | l2 => exact (ite_eq_or_eq _ _ _).symm.imp_right .inl

/-- A plan is no part of a cache (R331). -/
theorem Block.loadPlan_block (b : Block) (n : Nat) (name : CacheName) (row way word : Nat) :
    ∃ plan, (b.loadPlan n name row way word).1 = { b with plan := plan } := by
  rcases b.loadPlan_cases n name row way word with ⟨-, e⟩ | ⟨-, -, e⟩ | ⟨-, -, e⟩ <;> rw [e]
  · exact ⟨b.plan, rfl⟩
  · exact ⟨_, rfl⟩
  · exact ⟨b.plan, rfl⟩

/-! ### Configuration and counters of the block -/

/-- `b'` is a later state of the block `b`: its parameters stayed, its counters did not fall, and each cache is a
later state of itself. -/
structure Block.Advances (b b' : Block) : Prop where
  textStart : b'.textStart = b.textStart
  textEnd : b'.textEnd = b.textEnd
  armEnable : b'.armEnable = b.armEnable
  seeds : b'.seeds = b.seeds
  insnCount : b.insnCount ≤ b'.insnCount
  loadCount : b.loadCount ≤ b'.loadCount
  storeCount : b.storeCount ≤ b'.storeCount
  cache : ∀ c, (b.cache c).Advances (b'.cache c)

theorem Block.Advances.refl (b : Block) : b.Advances b :=
  ⟨rfl, rfl, rfl, rfl, le_rfl, le_rfl, le_rfl, fun _ => .refl _⟩

theorem Block.Advances.trans {b b' b'' : Block} (h : b.Advances b') (h' : b'.Advances b'') : b.Advances b'' where
  textStart := h'.textStart.trans h.textStart
  textEnd := h'.textEnd.trans h.textEnd
  armEnable := h'.armEnable.trans h.armEnable
  seeds := h'.seeds.trans h.seeds
  insnCount := h.insnCount.trans h'.insnCount
  loadCount := h.loadCount.trans h'.loadCount
  storeCount := h.storeCount.trans h'.storeCount
  cache c := (h.cache c).trans (h'.cache c)

theorem Block.advances_withCache {b : Block} {c : CacheId} {v : Cache} (h : (b.cache c).Advances v) :
    b.Advances (b.withCache c v) := by
  refine ⟨?_, ?_, ?_, ?_, ?_, ?_, ?_, Block.withCache_cache_rel .refl h⟩ <;> simp

theorem Block.advances_fetch (b : Block) (v : Word) : b.Advances (b.fetch v).1 := by
  have hcache : ∀ c, (b.cache c).Advances ((b.fetch v).1.cache c) := by
    intro c
    rcases b.fetch_cache v c with e | e <;> rw [e]
    · exact .refl _
    · exact Cache.advances_load _ v
  rcases b.fetch_block v with e | ⟨inj, e⟩
  · rw [e]
    exact .refl b
  · rw [e] at hcache ⊢
    exact ⟨rfl, rfl, rfl, rfl, Nat.le_succ _, le_rfl, le_rfl, hcache⟩

theorem Block.advances_cacheControl (b : Block) (g : Vector Word 16) : b.Advances (b.cacheControl g) := by
  rcases b.cacheControl_block g with ⟨-, row, way, e⟩ | ⟨-, e⟩ | e <;> rw [e]
  · exact Block.advances_withCache (c := .dcache) (Cache.advances_invalidateBlock _ row way)
  · exact Block.advances_withCache (c := .icache) (Cache.advances_invalidateAll _)
  · exact .refl b

/-- The record in `cur` takes no part in configuration and counters. -/
theorem Block.advances_withCur (b : Block) (r : Classification) : b.Advances { b with cur := r } :=
  ⟨rfl, rfl, rfl, rfl, le_rfl, le_rfl, le_rfl, fun c => by cases c <;> exact .refl _⟩

theorem Block.advances_memAccess (b : Block) (v : Word) (dir : AccessDir) : b.Advances (b.memAccess v dir) := by
  have hcache : ∀ c, (b.cache c).Advances ((b.memAccess v dir).cache c) := by
    intro c
    rcases b.memAccess_cache v dir c with e | e | e <;> rw [e]
    · exact .refl _
    · exact Cache.advances_load _ v
    · exact Cache.advances_store _ v
  rcases b.memAccess_cases v dir with ⟨-, e⟩ | ⟨-, -, -, e⟩ | ⟨-, -, -, e⟩ <;> rw [e] at hcache ⊢
  · exact .refl b
  · exact ⟨rfl, rfl, rfl, rfl, le_rfl, le_rfl, Nat.le_succ _, hcache⟩
  · exact ⟨rfl, rfl, rfl, rfl, le_rfl, Nat.le_succ _, le_rfl, hcache⟩

theorem Block.advances_loadPlan (b : Block) (n : Nat) (name : CacheName) (row way word : Nat) :
    b.Advances (b.loadPlan n name row way word).1 := by
  obtain ⟨plan, e⟩ := b.loadPlan_block n name row way word
  rw [e]
  exact ⟨rfl, rfl, rfl, rfl, le_rfl, le_rfl, le_rfl, fun c => by cases c <;> exact .refl _⟩

theorem Block.advances_teardown (b : Block) : b.Advances b.teardown :=
  ⟨rfl, rfl, rfl, rfl, le_rfl, le_rfl, le_rfl, fun c => by cases c <;> exact Cache.advances_teardown _⟩

/-- Every effect of an instruction that creates no cache leaves a later state of the block. -/
theorem Block.Becomes.advances {i : Instr} {b b' : Block} (h : b.Becomes i b') : b.Advances b' := by
  cases h with
  | runWord r v g =>
    exact ((b.advances_withCur r).trans (Block.advances_fetch _ v)).trans (Block.advances_cacheControl _ g)
  | wrongSize cond v => exact (b.advances_withCur (.notMem cond)).trans (Block.advances_fetch _ v)
  | memAccess v dir => exact b.advances_memAccess v dir
  | loadPlan n name row way word => exact b.advances_loadPlan n name row way word
  | teardown => exact b.advances_teardown
  | cacheLoad c a => exact Block.advances_withCache (Cache.advances_load _ a)
  | cacheStore c a => exact Block.advances_withCache (Cache.advances_store _ a)
  | cacheInvalidateBlock c row way => exact Block.advances_withCache (Cache.advances_invalidateBlock _ row way)
  | cacheInvalidateAll c => exact Block.advances_withCache (Cache.advances_invalidateAll _)
  | cacheTeardown c => exact Block.advances_withCache (Cache.advances_teardown _)
  | probe => exact .refl b

/-- An instruction that creates no cache leaves a later state of the block. -/
theorem exec_advances {i : Instr} {s t : State} {b b' : Block} (hb : s.block = some b) (h : exec i s = .next t)
    (hb' : t.block = some b') (hi : createsCache i = false) : b.Advances b' := by
  obtain ⟨b'', hb'', hbecomes⟩ := exec_becomes hb h hi
  obtain rfl : b'' = b' := Option.some.inj (hb''.symm.trans hb')
  exact hbecomes.advances

/-- Settles O54: a later state of the block has counters that did not fall. -/
theorem countersNeverDecrease : Obligations.CountersNeverDecrease := by
  intro i s t b b' hb h hb' hi
  have hadv := exec_advances hb h hb' hi
  refine ⟨hadv.insnCount, hadv.loadCount, hadv.storeCount, fun c => ?_⟩
  obtain ⟨hlh, hlm, hsh, hsm, hcm, hev⟩ := (hadv.cache c).counters
  exact ⟨hlh, hlm, hsh, hsm, hcm, hev⟩

/-- Settles O55: a later state of the block has the same parameters, and each cache its configuration. -/
theorem configurationIsImmutable : Obligations.ConfigurationIsImmutable := by
  intro i s t b b' hb h hb' hi
  have hadv := exec_advances hb h hb' hi
  refine ⟨hadv.textStart, hadv.textEnd, hadv.armEnable, hadv.seeds, fun c => ?_⟩
  obtain ⟨hconfig, hpolicy, -, hdead⟩ := hadv.cache c
  rw [hconfig]
  exact ⟨rfl, rfl, rfl, rfl, rfl, rfl, rfl, hpolicy, hdead⟩

end Sys2Proof.Machine

/-! ### Valid bits (10_state.md section 3, R42): what never clears one, and what clears one where -/

namespace Sys2Proof.Machine

/-- Every entry of `c` that is valid is valid in `c'`. -/
def Cache.KeepsValid (c c' : Cache) : Prop :=
  ∀ row way, way < c.assoc → (c.entry row way).valid = true → (c'.entry row way).valid = true

theorem Cache.KeepsValid.refl (c : Cache) : c.KeepsValid c := fun _ _ _ hvalid => hvalid

/-- Installing a line keeps every valid bit: it writes one entry, and that one becomes valid (R134). -/
theorem Cache.keepsValid_install (c : Cache) (hwf : Memory.wf .unlisted c.entries = true) (row : Nat) {way : Nat}
    (hway : way < c.assoc) (tag : Word) : c.KeepsValid (c.install row way tag) := by
  intro r w hw hvalid
  unfold Cache.install
  by_cases hslot : r = row ∧ w = way
  · obtain ⟨rfl, rfl⟩ := hslot
    rw [Cache.entry_withEntry_self c hwf]
  · rwa [Cache.entry_withEntry_ne c _ hway hw hslot]

/-- A fill keeps every valid bit, also the victim's: the line it evicts is replaced by another (R134). -/
theorem Cache.Sound.keepsValid_fill {c : Cache} (h : c.Sound) (k : Counters) (row : Nat) (tag : Word) :
    c.KeepsValid (Cache.fill { c with counters := k } row tag) := by
  rw [Cache.fill_eq]
  exact c.keepsValid_install h.entries_wf row (c.targetWay_lt row h.assoc_pos h.repl_sound) tag

theorem Cache.Sound.keepsValid_load {c : Cache} (h : c.Sound) (a : Word) : c.KeepsValid (c.load a).2 := by
  rcases c.load_cases a with ⟨-, e⟩ | ⟨-, -, e⟩ | ⟨-, -, e⟩ <;> rw [e]
  · exact .refl c
  · exact .refl c
  · exact h.keepsValid_fill _ _ _

theorem Cache.Sound.keepsValid_store {c : Cache} (h : c.Sound) (a : Word) : c.KeepsValid (c.store a).2 := by
  rcases c.store_cases a with ⟨-, e⟩ | ⟨-, -, e⟩ | ⟨-, -, -, e⟩ | ⟨-, -, -, e⟩ <;> rw [e]
  · exact .refl c
  · exact .refl c
  · exact .refl c
  · exact h.keepsValid_fill _ _ _

/-- `invalidate_block` clears no entry but the one it names (R139). -/
theorem Cache.entry_invalidateBlock_ne (c : Cache) {row way row' way' : Nat} (hway' : way' < c.assoc)
    (hne : ¬(row' = row ∧ way' = way)) : (c.invalidateBlock row way).entry row' way' = c.entry row' way' := by
  rcases c.invalidateBlock_cases row way with ⟨-, -, hway, e⟩ | ⟨-, e⟩ <;> rw [e]
  exact c.entry_withEntry_ne _ hway hway' hne

/-- A sound block with another sound record in `cur` is sound. -/
theorem Block.Sound.withCur {b : Block} (h : b.Sound) {r : Classification} (hr : r.Sound) :
    Block.Sound { b with cur := r } :=
  ⟨h.icache_sound, h.dcache_sound, h.l2_sound, hr⟩

/-- The record in `cur` takes no part in the caches. -/
theorem Block.cache_withCur (b : Block) (r : Classification) (c : CacheId) :
    Block.cache { b with cur := r } c = b.cache c := by
  cases c <;> rfl

/-- Classifying and fetching keeps every valid bit of every cache (R301, R302). -/
theorem Block.Sound.keepsValid_fetch {b : Block} (h : b.Sound) (r : Classification) (hr : r.Sound) (v : Word)
    (c : CacheId) : (b.cache c).KeepsValid ((Block.fetch { b with cur := r } v).1.cache c) := by
  have hcache := (h.withCur hr).cache c
  have hfetch := Block.fetch_cache { b with cur := r } v c
  rw [Block.cache_withCur] at hcache hfetch
  rcases hfetch with e | e <;> rw [e]
  · exact .refl _
  · exact hcache.keepsValid_load v

theorem Cache.keepsValid_teardown (c : Cache) : c.KeepsValid c.teardown := .refl c

theorem Block.Sound.keepsValid_memAccess {b : Block} (h : b.Sound) (v : Word) (dir : AccessDir) (c : CacheId) :
    (b.cache c).KeepsValid ((b.memAccess v dir).cache c) := by
  rcases b.memAccess_cache v dir c with e | e | e <;> rw [e]
  · exact .refl _
  · exact (h.cache c).keepsValid_load v
  · exact (h.cache c).keepsValid_store v

theorem Block.fetch_cur (b : Block) (v : Word) : (b.fetch v).1.cur = b.cur := by
  rcases b.fetch_block v with e | ⟨inj, e⟩ <;> rw [e]
  rfl

theorem Block.cacheControl_cur (b : Block) (g : Vector Word 16) : (b.cacheControl g).cur = b.cur := by
  rcases b.cacheControl_block g with ⟨-, row, way, e⟩ | ⟨-, e⟩ | e <;> rw [e]
  · rfl
  · rfl

/-- A word leaves its own record in `cur` (R301). -/
theorem Block.runWord_cur (b : Block) (r : Classification) (v : Word) (g : Vector Word 16) :
    (b.runWord r v g).1.cur = r := by
  simp only [Block.runWord, Block.cacheControl_cur, Block.fetch_cur]

/-- The cache-control part leaves a cache alone, unless it is D under DCISW or I under ICIALLU (R303, R304). -/
theorem Block.cacheControl_cache (b : Block) (g : Vector Word 16) (c : CacheId) :
    (b.cacheControl g).cache c = b.cache c
    ∨ (c = .dcache ∧ b.cur.cacheOp = .dcisw) ∨ (c = .icache ∧ b.cur.cacheOp = .iciallu) := by
  rcases b.cacheControl_block g with ⟨hop, row, way, e⟩ | ⟨hop, e⟩ | e <;> rw [e]
  · by_cases hc : c = .dcache
    · exact .inr (.inl ⟨hc, hop⟩)
    · exact .inl (Block.cache_withCache_ne b .dcache c _ hc)
  · by_cases hc : c = .icache
    · exact .inr (.inr ⟨hc, hop⟩)
    · exact .inl (Block.cache_withCache_ne b .icache c _ hc)
  · exact .inl rfl

/-- A word keeps every valid bit of a cache, unless it is D under DCISW or I under ICIALLU (R301, R303, R304). -/
theorem Block.Sound.keepsValid_runWord {b : Block} (h : b.Sound) {r : Classification} (hr : r.Sound) (v : Word)
    (g : Vector Word 16) (c : CacheId) :
    (b.cache c).KeepsValid ((b.runWord r v g).1.cache c)
    ∨ (c = .dcache ∧ r.cacheOp = .dcisw) ∨ (c = .icache ∧ r.cacheOp = .iciallu) := by
  have hcontrol := Block.cacheControl_cache (Block.fetch { b with cur := r } v).1 g c
  rw [Block.fetch_cur] at hcontrol
  refine hcontrol.imp_left fun e => ?_
  rw [Block.runWord, e]
  exact h.keepsValid_fetch r hr v c

/-- What clears a valid bit of cache `c` (R42, R176): an engine invalidation of that entry, or of all of `c`; for D an
InsnExec with a DCISW, for I one with an ICIALLU. -/
theorem Block.Becomes.cleared {i : Instr} {b b' : Block} (h : b.Becomes i b') (hb : b.Sound) {c : CacheId}
    {row way : Nat} (hway : way < (b.cache c).assoc) (hold : ((b.cache c).entry row way).valid = true)
    (hnew : ((b'.cache c).entry row way).valid = false) :
    i = .invalidateBlock c row way ∨ i = .invalidateAll c
    ∨ (IsInsnExec i
        ∧ ((c = .dcache ∧ b'.cur.cacheOp = .dcisw) ∨ (c = .icache ∧ b'.cur.cacheOp = .iciallu))) := by
  by_cases hkeeps : (b.cache c).KeepsValid (b'.cache c)
  · have hvalid := hkeeps row way hway hold
    rw [hnew] at hvalid
    cases hvalid
  cases h with
  | runWord r v g hi hr =>
    have hwhere := (hb.keepsValid_runWord hr v g c).resolve_left hkeeps
    rw [Block.runWord_cur]
    exact .inr (.inr ⟨hi, hwhere⟩)
  | wrongSize cond v => exact absurd (hb.keepsValid_fetch _ (Classification.notMem_sound cond) v c) hkeeps
  | memAccess v dir => exact absurd (hb.keepsValid_memAccess v dir c) hkeeps
  | loadPlan n name r w word =>
    obtain ⟨plan, e⟩ := b.loadPlan_block n name r w word
    rw [e] at hkeeps
    cases c <;> exact absurd (Cache.KeepsValid.refl _) hkeeps
  | teardown => cases c <;> exact absurd (Cache.keepsValid_teardown _) hkeeps
  | cacheLoad c' a => exact absurd (Block.withCache_cache_rel .refl ((hb.cache c').keepsValid_load a) c) hkeeps
  | cacheStore c' a => exact absurd (Block.withCache_cache_rel .refl ((hb.cache c').keepsValid_store a) c) hkeeps
  | cacheInvalidateBlock c' r w hi =>
    by_cases hc : c = c'
    · subst hc
      rw [Block.cache_withCache_self] at hnew
      by_cases hslot : row = r ∧ way = w
      · obtain ⟨rfl, rfl⟩ := hslot
        exact .inl hi
      · rw [Cache.entry_invalidateBlock_ne _ hway hslot, hold] at hnew
        cases hnew
    · rw [Block.cache_withCache_ne b c' c _ hc] at hkeeps
      exact absurd (Cache.KeepsValid.refl _) hkeeps
  | cacheInvalidateAll c' hi =>
    by_cases hc : c = c'
    · subst hc
      exact .inr (.inl hi)
    · rw [Block.cache_withCache_ne b c' c _ hc] at hkeeps
      exact absurd (Cache.KeepsValid.refl _) hkeeps
  | cacheTeardown c' => exact absurd (Block.withCache_cache_rel .refl (Cache.keepsValid_teardown _) c) hkeeps
  | probe => exact absurd (Cache.KeepsValid.refl _) hkeeps

/-- Settles O56: the instruction's effect on the block, by `Block.Becomes.cleared`. -/
theorem onlyInvalidationClearsValidBits : Obligations.OnlyInvalidationClearsValidBits := by
  intro i s t b b' c row way hb hsound h hb' hi _ hway hold hnew
  obtain ⟨b'', hb'', hbecomes⟩ := exec_becomes hb h hi
  obtain rfl : b'' = b' := Option.some.inj (hb''.symm.trans hb')
  exact hbecomes.cleared hsound hway hold hnew

end Sys2Proof.Machine

/-! ### The guest's registers (10_state.md section 3, R40): who reads them, and what of them -/

namespace Sys2Proof.Machine

/-- The word rows and InsnExec aside, an instruction that acts on the block acts in every state by the same operation: it
reads neither the port lines nor anything else of the state. -/
theorem exec_eq_onBlock_uniform {i : Instr} (hword : wordRecord i = none) (hinit : ∀ cfg, i ≠ .blockInit cfg)
    (hinsn : ∀ v bytes g, i ≠ .insnExec v bytes g) : ∃ op, ∀ s, exec i s = s.onBlock op := by
  cases i with
  | blockInit cfg => exact absurd rfl (hinit cfg)
  | insnExec v bytes g => exact absurd rfl (hinsn v bytes g)
  | init | load | store | invalidateBlock | invalidateAll | getAddr | isBlockValid | validateInjection | stats | teardown
  | memAccess | loadPlan | blockTeardown => exact ⟨_, fun _ => rfl⟩
  | _ => cases hword

/-- An operation of the block leaves the register lines alone and does not read them. -/
theorem State.onBlock_withGpr {s t : State} {op : Block → Block × List Output} (g : Vector Word 16)
    (h : s.onBlock op = .next t) : State.onBlock { s with gpr := g } op = .next { t with gpr := g } := by
  obtain ⟨b, hb, rfl⟩ := State.onBlock_next h
  exact State.onBlock_some { s with gpr := g } b op hb

/-- BlockInit does not read the register lines (R380). -/
theorem execBlockInit_withGpr {cfg : BlockConfig} {s t : State} (g : Vector Word 16)
    (h : execBlockInit cfg s = .next t) : execBlockInit cfg { s with gpr := g } = .next { t with gpr := g } := by
  unfold execBlockInit at h ⊢
  split at h <;> cases h <;> rfl

@[simp] theorem recordLsImm_cacheOp (id : Identifier) (f : LsImm) : (recordLsImm id f).cacheOp = .noOp := rfl
@[simp] theorem recordLsReg_cacheOp (id : Identifier) (f : LsReg) : (recordLsReg id f).cacheOp = .noOp := rfl
@[simp] theorem recordXls_cacheOp (id : Identifier) (f : Xls) : (recordXls id f).cacheOp = .noOp := by
  unfold recordXls; split <;> rfl
@[simp] theorem recordSync_cacheOp (id : Identifier) (op : BitVec 4) (f : Sync) : (recordSync id op f).cacheOp = .noOp := rfl
@[simp] theorem recordBlk_cacheOp (id : Identifier) (f : Blk) : (recordBlk id f).cacheOp = .noOp := rfl
@[simp] theorem recordCpLs_cacheOp (id : Identifier) (f : CpLs) : (recordCpLs id f).cacheOp = .noOp := rfl
@[simp] theorem recordCpRt_cacheOp (id : Identifier) (op : CacheOp) (f : CpRt) : (recordCpRt id op f).cacheOp = op := rfl
@[simp] theorem Classification.notMem_cacheOp (cond : BitVec 4) : (Classification.notMem cond).cacheOp = .noOp := rfl

/-- Of the word rows DCISW alone has the cache operation DCISW in its record, and its `Rt` there (R281). -/
theorem wordRecord_dcisw {i : Instr} {r : Classification} (h : wordRecord i = some r) (hop : r.cacheOp = .dcisw) :
    ∃ f, i = .dcisw f ∧ r.transferReg = f.rt := by
  cases i <;> cases h
  case dcisw f => exact ⟨f, rfl, rfl⟩
  all_goals simp at hop

/-- Two register values that agree in the fields *way* and *set* of a DCISW payload (R303). -/
def SamePayload (x y : Word) : Prop :=
  x.extractLsb' 30 2 = y.extractLsb' 30 2 ∧ x.extractLsb' 4 10 = y.extractLsb' 4 10

theorem SamePayload.dciswWay {x y : Word} (h : SamePayload x y) : dciswWay x = dciswWay y :=
  congrArg BitVec.toNat h.1

theorem SamePayload.dciswSet {x y : Word} (h : SamePayload x y) : dciswSet x = dciswSet y :=
  congrArg BitVec.toNat h.2

/-- The cache-control part reads the registers only for a DCISW, and of `gpr[Rt]` only the payload (R303). -/
theorem Block.cacheControl_congr (b : Block) {x y : Vector Word 16}
    (h : b.cur.cacheOp = .dcisw →
      SamePayload (x.get ⟨b.cur.transferReg.toNat, b.cur.transferReg.isLt⟩)
        (y.get ⟨b.cur.transferReg.toNat, b.cur.transferReg.isLt⟩)) :
    b.cacheControl x = b.cacheControl y := by
  unfold Block.cacheControl
  cases hop : b.cur.cacheOp with
  | dcisw => simp only [(h hop).dciswSet, (h hop).dciswWay]
  | iciallu => rfl
  | noOp => rfl

/-- Of the registers a word reads at most what its cache-control part reads (R301). -/
theorem Block.runWord_congr (b : Block) {r : Classification} (v : Word) {x y : Vector Word 16}
    (h : r.cacheOp = .dcisw →
      SamePayload (x.get ⟨r.transferReg.toNat, r.transferReg.isLt⟩)
        (y.get ⟨r.transferReg.toNat, r.transferReg.isLt⟩)) :
    b.runWord r v x = b.runWord r v y := by
  have hcur : (Block.fetch { b with cur := r } v).1.cur = r := Block.fetch_cur _ v
  exact Prod.ext (Block.cacheControl_congr (Block.fetch { b with cur := r } v).1 (by rwa [hcur])) rfl

/-- Settles O57: the instructions without a record act by an operation that does not see the registers; a word reads them
in its cache-control part alone. -/
theorem onlyDciswReadsGuestRegisters : Obligations.OnlyDciswReadsGuestRegisters := by
  intro i s t g hinsn hdcisw h
  cases hword : wordRecord i with
  | none =>
    by_cases hinit : ∃ cfg, i = .blockInit cfg
    · obtain ⟨cfg, rfl⟩ := hinit
      exact execBlockInit_withGpr g h
    · obtain ⟨op, hop⟩ := exec_eq_onBlock_uniform hword (fun cfg hi => hinit ⟨cfg, hi⟩) hinsn
      rw [hop] at h ⊢
      exact State.onBlock_withGpr g h
  | some r =>
    rw [exec_of_wordRecord hword] at h ⊢
    have hrun : ∀ b : Block, b.runWord r s.insnVaddr s.gpr = b.runWord r s.insnVaddr g := by
      refine fun b => b.runWord_congr s.insnVaddr fun hop => ?_
      obtain ⟨f, rfl, hrt⟩ := wordRecord_dcisw hword hop
      rw [hrt]
      exact hdcisw f rfl
    simp only [State.onWord, hrun] at h
    exact State.onBlock_withGpr g h

end Sys2Proof.Machine

/-! ### The fields of a word that is not a memory operation (30_encoding.md R92, R101), written and read -/

namespace Sys2Proof

@[simp] theorem NotMem.word_top (f : NotMem) : f.word.extractLsb' 25 3 = f.top := f.word_field 25 3 (by decide)

@[simp] theorem NotMem.word_coproc (f : NotMem) : f.word.extractLsb' 8 4 = f.coproc := f.word_field 8 4 (by decide)

theorem NotMem.word_bit (f : NotMem) {n : Nat} (hn : n < 28) : f.word.getLsbD n = f.bit n := f.word_getLsbD n hn

theorem NotMem.word_ofWord_field (w : Word) {start len : Nat} (h : start + len ≤ 28) :
    (NotMem.ofWord w).body.extractLsb' start len = w.extractLsb' start len := by
  rw [← NotMem.word_field _ start len h, NotMem.word_ofWord]

@[simp] theorem NotMem.ofWord_top (w : Word) : (NotMem.ofWord w).top = w.extractLsb' 25 3 :=
  NotMem.word_ofWord_field w (by decide)

@[simp] theorem NotMem.ofWord_coproc (w : Word) : (NotMem.ofWord w).coproc = w.extractLsb' 8 4 :=
  NotMem.word_ofWord_field w (by decide)

theorem NotMem.ofWord_bit (w : Word) {n : Nat} (hn : n < 28) : (NotMem.ofWord w).bit n = w.getLsbD n := by
  rw [← NotMem.word_bit _ hn, NotMem.word_ofWord]

/-! ### Every word is a well-formed row whose word it is (R100, R107) -/

/-- The instruction is a well-formed word row, and `w` is its word. -/
def Instr.IsRowOf (i : Instr) (w : Word) : Prop := WellFormed i = true ∧ encodeWord i = some w

theorem decodeRegularImm_isRowOf {w : Word} (htop : w.extractLsb' 25 3 = 0b010#3) :
    (decodeRegularImm w).IsRowOf w := by
  have hword := LsImm.word_ofWord w htop
  dsimp only [decodeRegularImm]
  generalize LsImm.ofWord w = f, w.getLsbD 22 = byte, w.getLsbD 20 = load at hword ⊢
  cases hunpriv : !f.p && f.w with
  | true => cases load <;> cases byte <;> exact ⟨hunpriv, congrArg some hword⟩
  | false =>
    cases load with
    | false => cases byte <;> exact ⟨by simp [WellFormed, hunpriv], congrArg some hword⟩
    | true =>
      cases byte <;> cases hlit : f.rn == 15#4 <;>
        exact ⟨by simp [WellFormed, hunpriv, bne, hlit], congrArg some hword⟩

theorem decodeRegularReg_isRowOf {w : Word} (htop : w.extractLsb' 25 3 = 0b011#3) (hreg : w.getLsbD 4 = false) :
    (decodeRegularReg w).IsRowOf w := by
  have hword := LsReg.word_ofWord w htop hreg
  dsimp only [decodeRegularReg]
  generalize LsReg.ofWord w = f, w.getLsbD 22 = byte, w.getLsbD 20 = load at hword ⊢
  cases hunpriv : !f.p && f.w with
  | true => cases load <;> cases byte <;> exact ⟨hunpriv, congrArg some hword⟩
  | false => cases load <;> cases byte <;> exact ⟨by simp [WellFormed, hunpriv], congrArg some hword⟩

/-- Bit 15 of the register list, the program counter (R97, R272). -/
theorem Blk.ofWord_bit15 (w : Word) : (Blk.ofWord w).registerList.getLsbD 15 = w.getLsbD 15 := by
  rw [Blk.ofWord, BitVec.getLsbD_extractLsb']
  rfl

/-- The three values of `op2` of an extra word (R95). -/
theorem op2_cases {op2 : BitVec 2} (h : op2 ≠ 0b00#2) : op2 = 0b01#2 ∨ op2 = 0b10#2 ∨ op2 = 0b11#2 := by
  revert op2
  decide

/-- The values of `w[27:25]` past block transfer and branch are those of the coprocessor words (R93). -/
theorem top_of_coproc {top : BitVec 3} (h0 : top ≠ 0b000#3) (h1 : top ≠ 0b001#3) (h2 : top ≠ 0b010#3)
    (h3 : top ≠ 0b011#3) (h4 : top ≠ 0b100#3) (h5 : top ≠ 0b101#3) : top = 0b110#3 ∨ top = 0b111#3 := by
  revert top
  decide

/-- The values of `w[23:20]` that name a synchronization primitive (R96). -/
def syncOps : List (BitVec 4) := [0#4, 4#4, 8#4, 9#4, 10#4, 11#4, 12#4, 13#4, 14#4, 15#4]

theorem isSyncOp_ofWord (w : Word) : (NotMem.ofWord w).isSyncOp = syncOps.contains (w.extractLsb' 20 4) := by
  have hops : ∀ op : BitVec 4, syncOps.contains op = (op.getLsbD 3 || (!op.getLsbD 1 && !op.getLsbD 0)) := by decide
  rw [hops]
  simp [NotMem.isSyncOp, NotMem.ofWord_bit]

/-- The ten named synchronization values and the six without a name (R96). -/
theorem syncOp_cases (op : BitVec 4) :
    (op = 0#4 ∨ op = 4#4 ∨ op = 8#4 ∨ op = 9#4 ∨ op = 10#4 ∨ op = 11#4 ∨ op = 12#4 ∨ op = 13#4 ∨ op = 14#4 ∨ op = 15#4)
    ∨ (op = 1#4 ∨ op = 2#4 ∨ op = 3#4 ∨ op = 5#4 ∨ op = 6#4 ∨ op = 7#4) := by
  revert op
  decide

/-- `w[7:4]` of a multiply or a synchronization primitive, from the bits the decoder tests (R93). -/
theorem extract_bits7to4 {w : Word} (h7 : w.getLsbD 7 = true) (h4 : w.getLsbD 4 = true)
    (hop : w.extractLsb' 5 2 = 0b00#2) : w.extractLsb' 4 4 = 0b1001#4 := by
  have h5 : w.getLsbD 5 = false := by simpa using congrArg (·.getLsbD 0) hop
  have h6 : w.getLsbD 6 = false := by simpa using congrArg (·.getLsbD 1) hop
  apply BitVec.eq_of_getLsbD_eq
  intro i hi
  rw [BitVec.getLsbD_extractLsb']
  interval_cases i <;> simp_all

/-- `w[27:24]` from `w[27:25]` and `w[24]`. -/
theorem extract_bits27to24 (w : Word) : w.extractLsb' 24 4 = w.extractLsb' 25 3 ++ BitVec.ofBool (w.getLsbD 24) := by
  apply BitVec.eq_of_getLsbD_eq
  intro i hi
  simp only [BitVec.getLsbD_append, BitVec.getLsbD_extractLsb']
  interval_cases i <;> simp

/-- `w[27:26]` from `w[27:25]`. -/
theorem extract_bits27to26 (w : Word) : w.extractLsb' 26 2 = (w.extractLsb' 25 3).extractLsb' 1 2 := by
  apply BitVec.eq_of_getLsbD_eq
  intro i hi
  simp only [BitVec.getLsbD_extractLsb']
  interval_cases i <;> simp

theorem decodeSync_isRowOf {w : Word} (htop : w.extractLsb' 25 3 = 0b000#3) (h24 : w.getLsbD 24 = true)
    (hmul : w.extractLsb' 4 4 = 0b1001#4) : (decodeSync w).IsRowOf w := by
  have hword := Sync.word_ofWord w (by rw [extract_bits27to24, htop, h24]; rfl) hmul
  have hnamed := isSyncOp_ofWord w
  dsimp only [decodeSync]
  generalize w.extractLsb' 20 4 = op at hword hnamed ⊢
  rcases syncOp_cases op with hop | hop
  · rcases hop with rfl | rfl | rfl | rfl | rfl | rfl | rfl | rfl | rfl | rfl <;> exact ⟨rfl, congrArg some hword⟩
  · have hunnamed : (NotMem.ofWord w).isSyncOp = false := by
      rcases hop with rfl | rfl | rfl | rfl | rfl | rfl <;> exact hnamed
    have hwf : WellFormed (.notMemMultiply (NotMem.ofWord w)) = true := by
      simp [WellFormed, NotMem.word_ofWord_field, htop, hmul, hunnamed]
    rcases hop with rfl | rfl | rfl | rfl | rfl | rfl <;> exact ⟨hwf, congrArg some (NotMem.word_ofWord w)⟩

theorem decodeExtra_isRowOf {w : Word} (htop : w.extractLsb' 25 3 = 0b000#3) (h7 : w.getLsbD 7 = true)
    (h4 : w.getLsbD 4 = true) (hop : w.extractLsb' 5 2 ≠ 0b00#2) : (decodeExtra w).IsRowOf w := by
  have hword := Xls.word_ofWord w htop h7 h4
  have hop2 := op2_cases hop
  dsimp only [decodeExtra]
  generalize w.extractLsb' 5 2 = op2, Xls.ofWord w = f, w.getLsbD 20 = load at hword hop2 ⊢
  cases hunpriv : !f.p && f.w <;> cases himm : f.i <;> cases hlit : f.rn == 15#4 <;>
    rcases hop2 with rfl | rfl | rfl <;> cases load <;>
    exact ⟨by simp [WellFormed, hunpriv, himm, bne, hlit], congrArg some hword⟩

theorem decodeBlock_isRowOf {w : Word} (htop : w.extractLsb' 25 3 = 0b100#3) : (decodeBlock w).IsRowOf w := by
  have hword := Blk.word_ofWord w htop
  dsimp only [decodeBlock]
  generalize Blk.ofWord w = f, w.getLsbD 20 = load at hword ⊢
  cases hs : f.s with
  | true =>
    cases load with
    | false => exact ⟨hs, congrArg some hword⟩
    | true => cases hpc : f.registerList.getLsbD 15 <;>
        exact ⟨by simp [WellFormed, hs, hpc, -BitVec.getLsbD_eq_getElem], congrArg some hword⟩
  | false =>
    cases load <;> cases hp : f.p <;> cases hu : f.u <;> cases hsp : f.w && f.rn == 13#4 <;>
      exact ⟨by simp [WellFormed, hs, hp, hu, hsp], congrArg some hword⟩

theorem decodeCoprocLs_isRowOf {w : Word} (htop : w.extractLsb' 25 3 = 0b110#3)
    (hcp : w.extractLsb' 8 4 ≠ Config.fpCoproc) : (decodeCoprocLs w).IsRowOf w := by
  have hword := CpLs.word_ofWord w htop
  have hcoproc : (CpLs.ofWord w).coproc ≠ Config.fpCoproc := hcp
  dsimp only [decodeCoprocLs]
  cases hhole : !(CpLs.ofWord w).p && !(CpLs.ofWord w).u && !(CpLs.ofWord w).w with
  | true =>
    refine ⟨?_, congrArg some (NotMem.word_ofWord w)⟩
    simp_all [WellFormed, NotMem.ofWord_bit, CpLs.ofWord]
  | false =>
    have hsome : ((CpLs.ofWord w).p || (CpLs.ofWord w).u || (CpLs.ofWord w).w) = true := by
      simpa [← Bool.not_or] using hhole
    generalize CpLs.ofWord w = f, w.getLsbD 20 = load at hword hcoproc hhole hsome ⊢
    cases load with
    | false => exact ⟨by simp [WellFormed, hcoproc, hsome], congrArg some hword⟩
    | true =>
      cases hlit : f.rn == 15#4 <;>
        exact ⟨by simp [WellFormed, bne, hcoproc, hsome, hlit], congrArg some hword⟩

/-- The operand set of DCISW is tested field by field (R281). -/
theorem CpRt.asDcisw_of_operands {f : CpRt}
    (h : (f.coproc == Config.cacheCtrlCoproc && f.opc1 == 0#3 && f.crn == 7#4 && f.crm == 6#4
      && f.opc2 == 2#3) = true) :
    CacheCtl.asDcisw { cond := f.cond, rt := f.rt } = f := by
  cases f
  simp_all [CacheCtl.asDcisw]

/-- The operand set of ICIALLU is tested field by field (R282). -/
theorem CpRt.asIciallu_of_operands {f : CpRt}
    (h : (f.coproc == Config.cacheCtrlCoproc && f.opc1 == 0#3 && f.crn == 7#4 && f.crm == 5#4
      && f.opc2 == 0#3) = true) :
    CacheCtl.asIciallu { cond := f.cond, rt := f.rt } = f := by
  cases f
  simp_all [CacheCtl.asIciallu]

/-- A transfer with neither operand set is no cache control (R280). -/
theorem CpRt.isCacheControl_eq (f : CpRt) :
    f.isCacheControl =
      ((f.coproc == Config.cacheCtrlCoproc && f.opc1 == 0#3 && f.crn == 7#4 && f.crm == 6#4 && f.opc2 == 2#3)
      || (f.coproc == Config.cacheCtrlCoproc && f.opc1 == 0#3 && f.crn == 7#4 && f.crm == 5#4 && f.opc2 == 0#3)) := by
  simp only [CpRt.isCacheControl, Bool.and_or_distrib_left, Bool.and_assoc]

theorem decodeCoprocRt_isRowOf {w : Word} (htop : w.extractLsb' 25 3 = 0b111#3) (h24 : w.getLsbD 24 = false)
    (h4 : w.getLsbD 4 = true) (hcp : w.extractLsb' 8 4 ≠ Config.fpCoproc) : (decodeCoprocRt w).IsRowOf w := by
  have hword := CpRt.word_ofWord w (by rw [extract_bits27to24, htop, h24]; rfl) h4
  have hcoproc : (CpRt.ofWord w).coproc ≠ Config.fpCoproc := hcp
  dsimp only [decodeCoprocRt]
  generalize CpRt.ofWord w = f, w.getLsbD 20 = load at hword hcoproc ⊢
  cases load with
  | true => exact ⟨by simpa [WellFormed] using hcoproc, congrArg some hword⟩
  | false =>
    simp only [Bool.false_eq_true, if_false]
    split_ifs with hdcisw hiciallu
    · exact ⟨rfl, by rw [encodeWord, CpRt.asDcisw_of_operands hdcisw, hword]⟩
    · exact ⟨rfl, by rw [encodeWord, CpRt.asIciallu_of_operands hiciallu, hword]⟩
    · refine ⟨?_, congrArg some hword⟩
      simp only [WellFormed, CpRt.isCacheControl_eq, hdcisw, hiciallu, bne_iff_ne.2 hcoproc]
      rfl

theorem decodeCoproc_isRowOf {w : Word} (htop : w.extractLsb' 25 3 = 0b110#3 ∨ w.extractLsb' 25 3 = 0b111#3) :
    (decodeCoproc w).IsRowOf w := by
  have hnot := congrArg some (NotMem.word_ofWord w)
  have h25 : w.getLsbD 25 = (w.extractLsb' 25 3).getLsbD 0 := by simp
  have h26 := extract_bits27to26 w
  unfold decodeCoproc
  split_ifs with hfp hls hother
  · refine ⟨?_, hnot⟩
    rcases htop with htop | htop <;> simp_all [WellFormed, NotMem.word_ofWord_field]
  · rcases htop with htop | htop
    · exact decodeCoprocLs_isRowOf htop (by simpa using hfp)
    · rw [h25, htop] at hls; cases hls
  · refine ⟨?_, hnot⟩
    rcases htop with htop | htop <;> simp_all [WellFormed, NotMem.ofWord_bit]
  · rcases htop with htop | htop
    · rw [h25, htop] at hls; exact absurd rfl hls
    · simp only [Bool.or_eq_true, not_or, Bool.not_eq_true, Bool.not_eq_false'] at hother
      exact decodeCoprocRt_isRowOf htop hother.1 hother.2 (by simpa using hfp)

theorem decodeZero_isRowOf {w : Word} (htop : w.extractLsb' 25 3 = 0b000#3) : (decodeZero w).IsRowOf w := by
  have hnot := congrArg some (NotMem.word_ofWord w)
  unfold decodeZero
  cases h74 : w.getLsbD 7 && w.getLsbD 4 with
  | false => exact ⟨by simp [WellFormed, htop, NotMem.ofWord_bit, h74, -BitVec.getLsbD_eq_getElem], hnot⟩
  | true =>
    obtain ⟨h7, h4⟩ := (Bool.and_eq_true _ _).mp h74
    simp only [if_true]
    split_ifs with hop h24
    · exact decodeSync_isRowOf htop h24 (extract_bits7to4 h7 h4 hop)
    · refine ⟨?_, hnot⟩
      simp [WellFormed, htop, NotMem.ofWord_bit, NotMem.word_ofWord_field, extract_bits7to4 h7 h4 hop, h24,
        -BitVec.getLsbD_eq_getElem]
    · exact decodeExtra_isRowOf htop h7 h4 hop

theorem decodeWord_isRowOf (w : Word) : (decodeWord w).IsRowOf w := by
  have hnot := congrArg some (NotMem.word_ofWord w)
  dsimp only [decodeWord]
  split_ifs with h0 h1 h2 h3 hmedia h4 h5
  · exact decodeZero_isRowOf h0
  · exact ⟨by simp [WellFormed, h1], hnot⟩
  · exact decodeRegularImm_isRowOf h2
  · exact ⟨by simpa [WellFormed, h3, NotMem.ofWord_bit] using hmedia, hnot⟩
  · exact decodeRegularReg_isRowOf h3 (Bool.eq_false_iff.2 hmedia)
  · exact decodeBlock_isRowOf h4
  · exact ⟨by simp [WellFormed, h5], hnot⟩
  · exact decodeCoproc_isRowOf (top_of_coproc h0 h1 h2 h3 h4 h5)

/-- Settles O2: the decoder's tests in turn, each branch by the lemma of its group. -/
theorem encodeUndoesDecode : Obligations.EncodeUndoesDecode := fun w => decodeWord_isRowOf w

end Sys2Proof

/-! ### A word is the word of one well-formed row only (R100) -/

namespace Sys2Proof

theorem decodeWord_lsImm_word (byte load : Bool) (f : LsImm) :
    decodeWord (f.word byte load) = decodeRegularImm (f.word byte load) := by
  simp [decodeWord]

theorem decodeWord_lsReg_word (byte load : Bool) (f : LsReg) :
    decodeWord (f.word byte load) = decodeRegularReg (f.word byte load) := by
  simp [decodeWord, -BitVec.getLsbD_eq_getElem]

theorem decodeWord_sync_word (op : BitVec 4) (f : Sync) : decodeWord (f.word op) = decodeSync (f.word op) := by
  simp [decodeWord, decodeZero, -BitVec.getLsbD_eq_getElem]

theorem decodeWord_xls_word {op2 : BitVec 2} (hop : op2 ≠ 0#2) (load : Bool) (f : Xls) :
    decodeWord (f.word op2 load) = decodeExtra (f.word op2 load) := by
  simp [decodeWord, decodeZero, hop, -BitVec.getLsbD_eq_getElem]

theorem decodeWord_blk_word (load : Bool) (f : Blk) : decodeWord (f.word load) = decodeBlock (f.word load) := by
  simp [decodeWord]

theorem decodeWord_cpLs_word {f : CpLs} (hcp : (f.coproc != Config.fpCoproc) = true) (load : Bool) :
    decodeWord (f.word load) = decodeCoprocLs (f.word load) := by
  have hne : f.coproc ≠ Config.fpCoproc := by simpa using hcp
  simp [decodeWord, decodeCoproc, hne, -BitVec.getLsbD_eq_getElem]

theorem decodeWord_cpRt_word {f : CpRt} (hcp : (f.coproc != Config.fpCoproc) = true) (load : Bool) :
    decodeWord (f.word load) = decodeCoprocRt (f.word load) := by
  have hne : f.coproc ≠ Config.fpCoproc := by simpa using hcp
  simp [decodeWord, decodeCoproc, hne, -BitVec.getLsbD_eq_getElem]

theorem bits_of_extract_bits7to4 {w : Word} (h : w.extractLsb' 4 4 = 0b1001#4) :
    w.getLsbD 7 = true ∧ w.getLsbD 4 = true ∧ w.extractLsb' 5 2 = 0b00#2 := by
  have hop : w.extractLsb' 5 2 = (w.extractLsb' 4 4).extractLsb' 1 2 := by
    apply BitVec.eq_of_getLsbD_eq
    intro i hi
    simp only [BitVec.getLsbD_extractLsb']
    interval_cases i <;> simp
  exact ⟨by simpa using congrArg (·.getLsbD 3) h, by simpa using congrArg (·.getLsbD 0) h, by rw [hop, h]; rfl⟩

theorem NotMem.word_bit25 (f : NotMem) : f.word.getLsbD 25 = f.top.getLsbD 0 := by
  rw [← NotMem.word_top, BitVec.getLsbD_extractLsb']
  rfl

/-- An unnamed synchronization value is a multiply (R96). -/
theorem decodeSync_of_not_isSyncOp {w : Word} (h : (NotMem.ofWord w).isSyncOp = false) :
    decodeSync w = .notMemMultiply (NotMem.ofWord w) := by
  rw [isSyncOp_ofWord] at h
  dsimp only [decodeSync]
  generalize w.extractLsb' 20 4 = op at h ⊢
  rcases syncOp_cases op with hop | hop
  · rcases hop with rfl | rfl | rfl | rfl | rfl | rfl | rfl | rfl | rfl | rfl <;> cases h
  · rcases hop with rfl | rfl | rfl | rfl | rfl | rfl <;> rfl

theorem decodeWord_eq_decodeCoproc {w : Word} (h : w.extractLsb' 26 2 = 0b11#2) : decodeWord w = decodeCoproc w := by
  have htops : ∀ x : BitVec 3, x.extractLsb' 1 2 = 0b11#2 →
      x ≠ 0b000#3 ∧ x ≠ 0b001#3 ∧ x ≠ 0b010#3 ∧ x ≠ 0b011#3 ∧ x ≠ 0b100#3 ∧ x ≠ 0b101#3 := by decide
  rw [extract_bits27to26] at h
  obtain ⟨h0, h1, h2, h3, h4, h5⟩ := htops _ h
  simp only [decodeWord, if_neg h0, if_neg h1, if_neg h2, if_neg h3, if_neg h4, if_neg h5]

/-- The two ways the hole of the coprocessor loads and stores is written (R98). -/
theorem none_set_eq (p u w : Bool) : (!p && !u && !w) = !(p || u || w) := by
  simp only [Bool.not_or]

/-- A well-formed row is what its word decodes to: each format's word goes to that format's decoder, which reads the
fields back and whose tests are the row's condition (R100). -/
theorem decodeWord_of_isRowOf {i : Instr} {w : Word} (h : i.IsRowOf w) : decodeWord w = i := by
  obtain ⟨hwf, hword⟩ := h
  cases i <;> cases hword <;>
    simp only [WellFormed, Bool.and_eq_true, Bool.not_eq_true', beq_iff_eq, bne_iff_ne] at hwf
  case strtImm f | ldrtImm f | strbtImm f | ldrbtImm f | strImm f | ldrLit f | ldrImm f | strbImm f | ldrbLit f
      | ldrbImm f =>
    rw [decodeWord_lsImm_word]
    simp [decodeRegularImm, hwf, -BitVec.getLsbD_eq_getElem]
  case strtReg f | ldrtReg f | strbtReg f | ldrbtReg f | strReg f | ldrReg f | strbReg f | ldrbReg f =>
    rw [decodeWord_lsReg_word]
    simp [decodeRegularReg, hwf, -BitVec.getLsbD_eq_getElem]
  case swp f | swpb f | strex f | ldrex f | strexd f | ldrexd f | strexb f | ldrexb f | strexh f | ldrexh f =>
    rw [decodeWord_sync_word]
    simp [decodeSync]
  case strht f | ldrht f | ldrsbt f | ldrsht f | strhReg f | strhImm f | ldrhReg f | ldrhLit f | ldrhImm f
      | ldrdReg f | ldrdLit f | ldrdImm f | ldrsbReg f | ldrsbLit f | ldrsbImm f | strdReg f | strdImm f
      | ldrshReg f | ldrshLit f | ldrshImm f =>
    rw [decodeWord_xls_word (by decide)]
    simp [decodeExtra, hwf, -BitVec.getLsbD_eq_getElem]
  case stmUser f | ldmExret f | ldmUser f | popMult f | pushMult f | stmda f | ldmda f | stmia f | ldmia f
      | stmdb f | ldmdb f | stmib f | ldmib f =>
    rw [decodeWord_blk_word]
    simp [decodeBlock, hwf, -BitVec.getLsbD_eq_getElem]
  case cpStr f | cpLdLit f | cpLdImm f =>
    rw [decodeWord_cpLs_word (bne_iff_ne.2 (by simp only [hwf, ne_eq, not_false_eq_true]))]
    simp only [decodeCoprocLs, CpLs.ofWord_word, CpLs.word_load, none_set_eq, hwf]
    simp [hwf]
  case dcisw f | iciallu f =>
    rw [decodeWord_cpRt_word (by rfl)]
    simp [decodeCoprocRt, CacheCtl.asDcisw, CacheCtl.asIciallu, -BitVec.getLsbD_eq_getElem]
  case cpMcr f =>
    rw [decodeWord_cpRt_word (bne_iff_ne.2 hwf.1)]
    rw [CpRt.isCacheControl_eq, Bool.or_eq_false_iff] at hwf
    simp only [decodeCoprocRt, CpRt.ofWord_word, CpRt.word_load, hwf, Bool.false_eq_true, if_false]
  case cpMrc f =>
    rw [decodeWord_cpRt_word (bne_iff_ne.2 hwf)]
    simp [decodeCoprocRt, -BitVec.getLsbD_eq_getElem]
  case notMemMedia f | notMemBranch f =>
    simp [decodeWord, NotMem.word_bit, hwf, -BitVec.getLsbD_eq_getElem]
  case notMemMultiply f =>
    obtain ⟨⟨htop, hmul⟩, hsync⟩ := hwf
    obtain ⟨h7, h4, hop⟩ := bits_of_extract_bits7to4 ((f.word_field 4 4 (by decide)).trans hmul)
    have hzero : decodeWord f.word = if f.bit 24 then decodeSync f.word else .notMemMultiply f := by
      simp [decodeWord, decodeZero, htop, h7, h4, hop, NotMem.word_bit, -BitVec.getLsbD_eq_getElem]
    rw [hzero]
    split_ifs with h24
    · rw [h24, Bool.true_and] at hsync
      rw [decodeSync_of_not_isSyncOp (by rwa [NotMem.ofWord_word]), NotMem.ofWord_word]
    · rfl
  case notMemDataProc f =>
    rcases (Bool.or_eq_true _ _).mp hwf with htop | hmisc
    · simp [decodeWord, beq_iff_eq.1 htop]
    · rw [Bool.and_eq_true, Bool.not_eq_true', beq_iff_eq] at hmisc
      simp [decodeWord, decodeZero, NotMem.word_bit, hmisc, -BitVec.getLsbD_eq_getElem]
  case notMemFpCoproc f =>
    rw [decodeWord_eq_decodeCoproc ((f.word_field 26 2 (by decide)).trans hwf.1)]
    simp [decodeCoproc, hwf]
  case notMemCoprocHole f =>
    obtain ⟨⟨⟨⟨htop, h24⟩, h23⟩, h21⟩, hcp⟩ := hwf
    have h25 : f.word.getLsbD 25 = false := by rw [NotMem.word_bit25, htop]; rfl
    have hhole : (!(CpLs.ofWord f.word).p && !(CpLs.ofWord f.word).u && !(CpLs.ofWord f.word).w) = true := by
      simp [CpLs.ofWord, NotMem.word_bit, h24, h23, h21, -BitVec.getLsbD_eq_getElem]
    simp [decodeWord, decodeCoproc, decodeCoprocLs, htop, h25, hhole, hcp, -BitVec.getLsbD_eq_getElem]
  case notMemOther f =>
    obtain ⟨⟨htop, hother⟩, hcp⟩ := hwf
    have h25 : f.word.getLsbD 25 = true := by rw [NotMem.word_bit25, htop]; rfl
    simp [decodeWord, decodeCoproc, NotMem.word_bit, htop, h25, hother, hcp, -BitVec.getLsbD_eq_getElem]

/-! ### Decoding undoes encoding (R94 to R99, R109, R110) -/

theorem wordOfBytes_bytesOfWord (w : Word) :
    wordOfBytes (w.extractLsb' 0 8) (w.extractLsb' 8 8) (w.extractLsb' 16 8) (w.extractLsb' 24 8) = w := by
  apply BitVec.eq_of_getLsbD_eq
  intro i hi
  simp only [wordOfBytes, -Nat.reduceAdd, BitVec.getLsbD_append, BitVec.getLsbD_extractLsb']
  interval_cases i <;> simp

/-- A word row is encoded as the InsnExec event of its word (R90, R110). -/
theorem decode_encode_of_encodeWord {i : Instr} {w : Word} (h : encodeWord i = some w) :
    decode (encode i) = .instr (decodeWord w) := by
  have hencode : encode i = .event 1#3 { bytes := bytesOfWord w } := by
    unfold encode
    rw [h]
  rw [hencode]
  simp [decode, decodeEvent, decodeInsnExec, bytesOfWord, wordOfBytes_bytesOfWord]

/-- The command code of a cache and an operation (R109). -/
theorem decodeCommand_selectOfCache (c : CacheId) (op : BitVec 4) (a : CommandArgs) {i : Instr}
    (h : commandOfOp op c a = some i) : decodeCommand (selectOfCache c ++ op) a = .instr i := by
  have hop : ∀ (x : BitVec 2) (y : BitVec 4), (x ++ y).extractLsb' 0 4 = y := by decide
  have hselect : ∀ (x : BitVec 2) (y : BitVec 4), (x ++ y).extractLsb' 4 2 = x := by decide
  have hcache : cacheOfSelect (selectOfCache c) = some c := by cases c <;> rfl
  simp only [decodeCommand, hselect, hcache, hop, h]

/-- Bytes that are not four are no word (R91). -/
theorem decodeInsnExec_of_length {a : EventArgs} (h : a.bytes.length ≠ 4) :
    decodeInsnExec a = .insnExec a.vaddr a.bytes a.gpr := by
  unfold decodeInsnExec
  split
  · simp_all
  · rfl

/-- Settles O1: a word row by its word, a command by its code, an event by its code. -/
theorem decodeUndoesEncode : Obligations.DecodeUndoesEncode := by
  intro i hwf
  cases hword : encodeWord i with
  | some w => rw [decode_encode_of_encodeWord hword, decodeWord_of_isRowOf ⟨hwf, hword⟩]
  | none =>
    cases i <;> try (cases hword; done)
    case insnExec v bytes g =>
      exact congrArg Decoded.instr (decodeInsnExec_of_length (by simpa [WellFormed] using hwf))
    case init | load | store | invalidateBlock | invalidateAll | getAddr | isBlockValid | validateInjection | stats
        | teardown =>
      exact decodeCommand_selectOfCache _ _ _ rfl
    case blockInit | memAccess | loadPlan | blockTeardown => rfl

end Sys2Proof

/-! ### The decode procedure of R100 gives the record of the row the decoder reads (R100, R105) -/

namespace Sys2Proof.Machine

theorem wordRecord_decodeRegularImm {w : Word} (h25 : w.getLsbD 25 = false) :
    wordRecord (decodeRegularImm w) = some (classifyRegular w) := by
  have hp : w.getLsbD 24 = (LsImm.ofWord w).p := rfl
  have hw : w.getLsbD 21 = (LsImm.ofWord w).w := rfl
  have hrn : w.extractLsb' 16 4 = (LsImm.ofWord w).rn := rfl
  dsimp only [decodeRegularImm, classifyRegular]
  rw [h25, hp, hw, hrn]
  generalize LsImm.ofWord w = f, w.getLsbD 22 = byte, w.getLsbD 20 = load
  cases f.p <;> cases f.w <;> cases load <;> cases byte <;> by_cases hlit : f.rn = 15#4 <;> simp [wordRecord, hlit]

theorem wordRecord_decodeRegularReg {w : Word} (h25 : w.getLsbD 25 = true) :
    wordRecord (decodeRegularReg w) = some (classifyRegular w) := by
  have hp : w.getLsbD 24 = (LsReg.ofWord w).p := rfl
  have hw : w.getLsbD 21 = (LsReg.ofWord w).w := rfl
  dsimp only [decodeRegularReg, classifyRegular]
  rw [h25, hp, hw]
  generalize LsReg.ofWord w = f, w.getLsbD 22 = byte, w.getLsbD 20 = load
  cases f.p <;> cases f.w <;> cases load <;> cases byte <;> rfl

theorem wordRecord_decodeExtra {w : Word} (hop : w.extractLsb' 5 2 ≠ 0b00#2) :
    wordRecord (decodeExtra w) = some (classifyExtra w) := by
  have hp : w.getLsbD 24 = (Xls.ofWord w).p := rfl
  have hi : w.getLsbD 22 = (Xls.ofWord w).i := rfl
  have hw : w.getLsbD 21 = (Xls.ofWord w).w := rfl
  have hrn : w.extractLsb' 16 4 = (Xls.ofWord w).rn := rfl
  dsimp only [decodeExtra, classifyExtra, extraForm]
  rw [hp, hw, hrn, hi]
  have hop2 := op2_cases hop
  generalize Xls.ofWord w = f, w.extractLsb' 5 2 = op2, w.getLsbD 20 = load at hop2 ⊢
  rcases hop2 with rfl | rfl | rfl <;> cases load <;> cases f.p <;> cases f.w <;> cases f.i <;>
    by_cases hlit : f.rn = 15#4 <;> simp [wordRecord, hlit]

theorem wordRecord_decodeSync (w : Word) : wordRecord (decodeSync w) = some (classifySync w) := by
  have hcond : w.extractLsb' 28 4 = (NotMem.ofWord w).cond := rfl
  dsimp only [decodeSync, classifySync, classifyNotMem]
  rw [hcond]
  generalize w.extractLsb' 20 4 = op, Sync.ofWord w = f, NotMem.ofWord w = f'
  rcases syncOp_cases op with hop | hop
  · rcases hop with rfl | rfl | rfl | rfl | rfl | rfl | rfl | rfl | rfl | rfl <;> rfl
  · rcases hop with rfl | rfl | rfl | rfl | rfl | rfl <;> rfl

/-- `w[24:20]`, bit by bit (R97). -/
theorem extract_bits24to20 (w : Word) :
    w.extractLsb' 20 5 = BitVec.ofBool (w.getLsbD 24) ++ BitVec.ofBool (w.getLsbD 23) ++ BitVec.ofBool (w.getLsbD 22)
      ++ BitVec.ofBool (w.getLsbD 21) ++ BitVec.ofBool (w.getLsbD 20) := by
  apply BitVec.eq_of_getLsbD_eq
  intro i hi
  simp only [-Nat.reduceAdd, BitVec.getLsbD_append, BitVec.getLsbD_extractLsb']
  interval_cases i <;> simp

/-- `w[24:23]`, bit by bit (R97, R98). -/
theorem extract_bits24to23 (w : Word) :
    w.extractLsb' 23 2 = BitVec.ofBool (w.getLsbD 24) ++ BitVec.ofBool (w.getLsbD 23) := by
  apply BitVec.eq_of_getLsbD_eq
  intro i hi
  simp only [-Nat.reduceAdd, BitVec.getLsbD_append, BitVec.getLsbD_extractLsb']
  interval_cases i <;> simp

theorem wordRecord_decodeBlock (w : Word) : wordRecord (decodeBlock w) = some (classifyBlock w) := by
  have hp : w.getLsbD 24 = (Blk.ofWord w).p := rfl
  have hu : w.getLsbD 23 = (Blk.ofWord w).u := rfl
  have hs : w.getLsbD 22 = (Blk.ofWord w).s := rfl
  have hw : w.getLsbD 21 = (Blk.ofWord w).w := rfl
  have hrn : w.extractLsb' 16 4 = (Blk.ofWord w).rn := rfl
  have hpc := (Blk.ofWord_bit15 w).symm
  dsimp only [decodeBlock, classifyBlock]
  rw [extract_bits24to20, extract_bits24to23, hp, hu, hs, hw, hrn, hpc]
  generalize Blk.ofWord w = f, w.getLsbD 20 = load
  cases f.s with
  | true => cases load <;> cases f.registerList.getLsbD 15 <;> rfl
  | false =>
    cases f.p <;> cases f.u <;> cases f.w <;> cases load <;> by_cases hsp : f.rn = 13#4 <;>
      simp [wordRecord, hsp]

/-- The cache-control operation of an MCR by its operand set (R280 to R282). -/
theorem cacheOpOf_cpMcr (f : CpRt) :
    cacheOpOf .cpMcr f =
      if f.coproc == Config.cacheCtrlCoproc && f.opc1 == 0#3 && f.crn == 7#4 && f.crm == 6#4 && f.opc2 == 2#3 then
        .dcisw
      else if f.coproc == Config.cacheCtrlCoproc && f.opc1 == 0#3 && f.crn == 7#4 && f.crm == 5#4 && f.opc2 == 0#3 then
        .iciallu
      else .noOp := by
  by_cases hcoproc : f.coproc = Config.cacheCtrlCoproc <;> by_cases hopc1 : f.opc1 = 0#3 <;>
    by_cases hcrn : f.crn = 7#4 <;> simp [cacheOpOf, hcoproc, hopc1, hcrn]

/-- A register transfer: MRC, one of the two cache-control operations, or another MCR (R280). -/
theorem wordRecord_decodeCoprocRt (w : Word) :
    wordRecord (decodeCoprocRt w) =
      some (recordCpRt (if w.getLsbD 20 then .cpMrc else .cpMcr)
        (cacheOpOf (if w.getLsbD 20 then .cpMrc else .cpMcr) (CpRt.ofWord w)) (CpRt.ofWord w)) := by
  unfold decodeCoprocRt
  generalize CpRt.ofWord w = f, w.getLsbD 20 = load
  cases load with
  | true => rfl
  | false =>
    simp only [Bool.false_eq_true, if_false, cacheOpOf_cpMcr]
    split_ifs with hdcisw hiciallu
    · rw [wordRecord, CpRt.asDcisw_of_operands hdcisw]
    · rw [wordRecord, CpRt.asIciallu_of_operands hiciallu]
    · rfl

theorem wordRecord_decodeCoproc (w : Word) : wordRecord (decodeCoproc w) = some (classifyCoproc w) := by
  unfold decodeCoproc classifyCoproc
  by_cases hfp : w.extractLsb' 8 4 = Config.fpCoproc
  · simp only [hfp, beq_self_eq_true, if_true]
    rfl
  rw [if_neg (by simpa using hfp), if_neg hfp]
  cases h25 : w.getLsbD 25 with
  | false =>
    have hp : w.getLsbD 24 = (CpLs.ofWord w).p := rfl
    have hu : w.getLsbD 23 = (CpLs.ofWord w).u := rfl
    have hw : w.getLsbD 21 = (CpLs.ofWord w).w := rfl
    have hrn : w.extractLsb' 16 4 = (CpLs.ofWord w).rn := rfl
    have hcond : w.extractLsb' 28 4 = (NotMem.ofWord w).cond := rfl
    dsimp only [decodeCoprocLs, classifyNotMem]
    rw [extract_bits24to23, hp, hu, hw, hrn, hcond]
    generalize CpLs.ofWord w = f, NotMem.ofWord w = f', w.getLsbD 20 = load
    cases f.p <;> cases f.u <;> cases f.w <;> cases load <;> by_cases hlit : f.rn = 15#4 <;> simp [wordRecord, hlit]
  | true =>
    cases hother : w.getLsbD 24 || !w.getLsbD 4 with
    | true =>
      have hnone : w.getLsbD 24 = true ∨ w.getLsbD 4 = false := by simpa using hother
      rw [if_pos hnone]
      rfl
    | false =>
      have hnone : ¬(w.getLsbD 24 = true ∨ w.getLsbD 4 = false) := by simpa using hother
      rw [if_neg hnone]
      exact wordRecord_decodeCoprocRt w

theorem wordRecord_decodeZero (w : Word) :
    wordRecord (decodeZero w) = some (if w.getLsbD 7 = true ∧ w.getLsbD 4 = true then
      if w.extractLsb' 5 2 = 0b00#2 then
        if w.getLsbD 24 then classifySync w else classifyNotMem w
      else classifyExtra w
    else classifyNotMem w) := by
  unfold decodeZero
  simp only [Bool.and_eq_true]
  split_ifs with h74 hop h24
  · exact wordRecord_decodeSync w
  · rfl
  · exact wordRecord_decodeExtra hop
  · rfl

/-- The decode procedure gives the record of the row the decoder reads, group by group of `w[27:25]` (R93, R100). -/
theorem wordRecord_decodeWord (w : Word) : wordRecord (decodeWord w) = some (classify w) := by
  have htops : ∀ x : BitVec 3, x = 0b000#3 ∨ x = 0b001#3 ∨ x = 0b010#3 ∨ x = 0b011#3 ∨ x = 0b100#3 ∨ x = 0b101#3
      ∨ x = 0b110#3 ∨ x = 0b111#3 := by decide
  have h25 : w.getLsbD 25 = (w.extractLsb' 25 3).getLsbD 0 := by
    rw [BitVec.getLsbD_extractLsb']
    rfl
  rcases htops (w.extractLsb' 25 3) with htop | htop | htop | htop | htop | htop | htop | htop <;> rw [htop] at h25 <;>
    simp [decodeWord, classify, htop, -BitVec.getLsbD_eq_getElem]
  · exact wordRecord_decodeZero w
  · rfl
  · exact wordRecord_decodeRegularImm h25
  · cases hmedia : w.getLsbD 4 with
    | false => exact wordRecord_decodeRegularReg h25
    | true => rfl
  · exact wordRecord_decodeBlock w
  · rfl
  · exact wordRecord_decodeCoproc w
  · exact wordRecord_decodeCoproc w

/-- InsnExec of the bytes of a word runs the word's record (R60, R301). -/
theorem exec_insnExec_bytesOfWord (w v : Word) (g : Vector Word 16) (s : State) :
    exec (.insnExec v (bytesOfWord w) g) s = State.onWord { s with insnVaddr := v, gpr := g } (classify w) :=
  congrArg (fun x => State.onWord { s with insnVaddr := v, gpr := g } (classify x)) (wordOfBytes_bytesOfWord w)

/-- Settles O4: both sides run one record. -/
theorem classifierAgreesWithDecoder : Obligations.ClassifierAgreesWithDecoder := by
  intro w v g s
  rw [exec_insnExec_bytesOfWord, exec_of_wordRecord (wordRecord_decodeWord w)]

end Sys2Proof.Machine

/-! ### Sample words, reserved codes, and words with no cache-control part (R60, R91, R101, R109, R110, R300, R301) -/

namespace Sys2Proof.Machine

/-- Settles O5: each word is closed, so the decoder computes its row. -/
theorem sampleWordsDecode : Obligations.SampleWordsDecode :=
  ⟨rfl, rfl, rfl, rfl, rfl, rfl, rfl, rfl, rfl, rfl, rfl, rfl, rfl, rfl⟩

theorem toNat_append_byte {n : Nat} (x : BitVec n) (b : Byte) : (x ++ b).toNat = x.toNat * 2 ^ 8 + b.toNat := by
  rw [BitVec.toNat_append, ← Nat.shiftLeft_add_eq_or_of_lt b.isLt, Nat.shiftLeft_eq]

/-- The word of four bytes is their little-endian sum (R60, R90). -/
theorem wordOfBytes_eq_ofNat (b0 b1 b2 b3 : Byte) :
    wordOfBytes b0 b1 b2 b3
      = BitVec.ofNat 32 (b0.toNat + b1.toNat * 2 ^ 8 + b2.toNat * 2 ^ 16 + b3.toNat * 2 ^ 24) := by
  apply BitVec.eq_of_toNat_eq
  have hsum : (wordOfBytes b0 b1 b2 b3).toNat
      = b0.toNat + b1.toNat * 2 ^ 8 + b2.toNat * 2 ^ 16 + b3.toNat * 2 ^ 24 := by
    calc (wordOfBytes b0 b1 b2 b3).toNat
        = ((b3.toNat * 2 ^ 8 + b2.toNat) * 2 ^ 8 + b1.toNat) * 2 ^ 8 + b0.toNat := by
          rw [← toNat_append_byte, ← toNat_append_byte, ← toNat_append_byte]
          rfl
      _ = _ := by ring
  rw [BitVec.toNat_ofNat, ← hsum, Nat.mod_eq_of_lt (wordOfBytes b0 b1 b2 b3).isLt]

/-- Settles O11: the event decodes to the row of the word of its bytes. -/
theorem stepRunsTheLittleEndianWord : Obligations.StepRunsTheLittleEndianWord := by
  intro s a rest b0 b1 b2 b3 hq hbytes
  have hdecode : decode (.event 1#3 a) = .instr (decodeWord (wordOfBytes b0 b1 b2 b3)) := by
    simp [decode, decodeEvent, decodeInsnExec, hbytes]
  rw [step_of_decode hq hdecode, State.accept_insnExec, wordOfBytes_eq_ofNat]

/-- Operations 10 to 15 are reserved (R109). -/
theorem commandOfOp_reserved {op : BitVec 4} (h : 10 ≤ op.toNat) (c : CacheId) (a : CommandArgs) :
    commandOfOp op c a = none := by
  have hops : ∀ x : BitVec 4, 10 ≤ x.toNat → x = 10#4 ∨ x = 11#4 ∨ x = 12#4 ∨ x = 13#4 ∨ x = 14#4 ∨ x = 15#4 := by
    decide
  rcases hops op h with rfl | rfl | rfl | rfl | rfl | rfl <;> rfl

/-- `cache_select` 3 is reserved (R109). -/
theorem cacheOfSelect_reserved : cacheOfSelect 3#2 = none := rfl

/-- A command code with a reserved operation or a reserved cache is reserved (R109). -/
theorem decodeCommand_reserved {code : BitVec 6} (h : 10 ≤ code.toNat % 16 ∨ code.toNat / 16 = 3) (a : CommandArgs) :
    decodeCommand code a = .reservedCommand code := by
  unfold decodeCommand
  rcases h with hop | hsel
  · have hreserved : ∀ c, commandOfOp (code.extractLsb' 0 4) c a = none := fun c =>
      commandOfOp_reserved (by simpa using hop) c a
    cases cacheOfSelect (code.extractLsb' 4 2) <;> simp [hreserved]
  · have hthree : code.extractLsb' 4 2 = 3#2 := by
      apply BitVec.eq_of_toNat_eq
      simp [Nat.shiftRight_eq_div_pow, hsel]
    simp [hthree, cacheOfSelect_reserved]

/-- Event codes 5 to 7 are reserved (R110). -/
theorem decodeEvent_reserved {code : BitVec 3} (h : 5 ≤ code.toNat) (a : EventArgs) :
    decodeEvent code a = .reservedEvent code := by
  have hcodes : ∀ x : BitVec 3, 5 ≤ x.toNat → x = 5#3 ∨ x = 6#3 ∨ x = 7#3 := by decide
  rcases hcodes code h with rfl | rfl | rfl <;> rfl

/-- Settles O12: the step drops what decodes to a reserved code. -/
theorem reservedCodesAndIdleStepsChangeNothing : Obligations.ReservedCodesAndIdleStepsChangeNothing := by
  refine ⟨fun s code a rest hq hcode => ?_, fun s code a rest hq hcode => ?_, fun s hq => ?_⟩
  · simp only [step, hq, decode, decodeCommand_reserved hcode]
  · simp only [step, hq, decode, decodeEvent_reserved hcode]
  · simp only [step, hq]

/-- A word whose record has no cache-control operation is its record in `cur` and the fetch (R301). -/
theorem onWord_eq_afterFetch {s : State} {b : Block} (hb : s.block = some b) {r : Classification}
    (hop : r.cacheOp = .noOp) : s.onWord r = .next (afterFetch s b r) := by
  have hcontrol : (Block.fetch { b with cur := r } s.insnVaddr).1.cacheControl s.gpr
      = (Block.fetch { b with cur := r } s.insnVaddr).1 := by
    simp [Block.cacheControl, Block.fetch_cur, hop]
  simp only [State.onWord, State.onBlock_some _ _ _ hb, Block.runWord, hcontrol]
  simp only [Block.fetch_eq, afterFetch]

/-- Settles O20: all seven rows run the one NOT_MEM record. -/
theorem notMemoryWordsComplete : Obligations.NotMemoryWordsComplete := by
  intro f s b hb record
  have hrun : s.onWord (.notMem f.cond) = .next (afterFetch s b record) := onWord_eq_afterFetch hb rfl
  exact ⟨hrun, hrun, hrun, hrun, hrun, hrun, hrun⟩

/-- Settles O41: bytes that are not four run `wrongSize`, whose second part is the fetch. -/
theorem wrongSizeInstructionIsReported : Obligations.WrongSizeInstructionIsReported := by
  intro v bytes g s b hb hlen record done
  have hsize : exec (.insnExec v bytes g) s = State.onWrongSize { s with insnVaddr := v, gpr := g } := by
    rcases execInsnExec_cases v bytes g s with ⟨b0, b1, b2, b3, rfl, -⟩ | ⟨-, e⟩
    · exact absurd rfl hlen
    · exact e
  rw [hsize]
  simp only [State.onWrongSize, State.onBlock, hb, Block.wrongSize, Block.fetch_eq]
  rfl

end Sys2Proof.Machine

/-! ### Re-encoding a record (R113) -/

namespace Sys2Proof

@[simp] theorem Xls.word_bit24 (op2 : BitVec 2) (load : Bool) (f : Xls) : (f.word op2 load).getLsbD 24 = f.p :=
  congrArg Xls.p (f.ofWord_word op2 load)

@[simp] theorem Xls.word_bit21 (op2 : BitVec 2) (load : Bool) (f : Xls) : (f.word op2 load).getLsbD 21 = f.w :=
  congrArg Xls.w (f.ofWord_word op2 load)

@[simp] theorem Xls.word_hi (op2 : BitVec 2) (load : Bool) (f : Xls) : (f.word op2 load).extractLsb' 8 4 = f.hi :=
  congrArg Xls.hi (f.ofWord_word op2 load)

end Sys2Proof

namespace Sys2Proof.Machine

/-- `W` is rebuilt from the addressing flags where the unprivileged names are the words with `P = 0`,
`W = 1` (R104, R113). -/
theorem rebuiltW_addrFlags {id : Identifier} {p u w : Bool} (h : (!p && w) = id.unprivileged) :
    rebuiltW id (addrFlags p u w) = w := by
  rw [rebuiltW, ← h]
  cases p <;> cases w <;> rfl

theorem addrFlags_index (p u w : Bool) : (addrFlags p u w).index = p := rfl

theorem addrFlags_add (p u w : Bool) : (addrFlags p u w).add = u := rfl

theorem rebuild_recordLsImm {id : Identifier} {f : LsImm} (h : (!f.p && f.w) = id.unprivileged) :
    (recordLsImm id f).rebuild = some (f.word id.byteBit id.loadBit) := by
  simp only [recordLsImm, recordOf, Classification.rebuild, rebuiltW_addrFlags h]
  rfl

theorem rebuild_recordLsReg {id : Identifier} {f : LsReg} (h : (!f.p && f.w) = id.unprivileged) :
    (recordLsReg id f).rebuild = some (f.word id.byteBit id.loadBit) := by
  simp only [recordLsReg, recordOf, Classification.rebuild, rebuiltW_addrFlags h]
  rfl

/-- The register form does not keep `w[11:8]` (R113). -/
theorem rebuild_recordXls {id : Identifier} {f : Xls} (h : (!f.p && f.w) = id.unprivileged)
    (hhi : f.i = false → f.hi = 0#4) : (recordXls id f).rebuild = some (f.word id.op2 id.loadBit) := by
  have hhigh : ∀ x y : BitVec 4, (x ++ y).extractLsb' 4 4 = x := by decide
  have hlow : ∀ x y : BitVec 4, (x ++ y).extractLsb' 0 4 = y := by decide
  obtain ⟨cond, p, u, i, w, rn, rt, hi, lo⟩ := f
  have hw : rebuiltW id (addrFlags p u w) = w := rebuiltW_addrFlags h
  cases i with
  | false =>
    obtain rfl : hi = 0#4 := hhi rfl
    simp only [recordXls, recordOf, Bool.false_eq_true, if_false, Classification.rebuild, hw, addrFlags_index,
      addrFlags_add]
  | true =>
    simp only [recordXls, recordOf, if_true, Classification.rebuild, hw, hhigh, hlow, addrFlags_index, addrFlags_add]

theorem recordXls_format (id : Identifier) {f : Xls} (h : f.i = false) : (recordXls id f).format = some .xlsReg := by
  simp [recordXls, h, recordOf]

theorem recordXls_id (id : Identifier) (f : Xls) : (recordXls id f).id = id := by
  unfold recordXls
  split_ifs <;> rfl

/-- A regular or extra row's record gives its word back, but for what the record does not keep (R113). -/
theorem rebuild_of_isRowOf {i : Instr} {w : Word} {r : Classification} (h : i.IsRowOf w) (hr : wordRecord i = some r)
    (hcat : r.category = .regular ∨ r.category = .extra)
    (hhi : r.format = some .xlsReg → w.extractLsb' 8 4 = 0#4)
    (hdual : (r.id = .ldrdReg ∨ r.id = .ldrdImm ∨ r.id = .ldrdLit ∨ r.id = .strdReg ∨ r.id = .strdImm) →
      ¬(w.getLsbD 24 = false ∧ w.getLsbD 21 = true)) : r.rebuild = some w := by
  obtain ⟨hwf, hword⟩ := h
  cases i <;> cases hword <;> cases hr <;>
    simp only [WellFormed, Bool.and_eq_true, Bool.not_eq_true', beq_iff_eq, bne_iff_ne] at hwf
  case strtImm f | ldrtImm f | strbtImm f | ldrbtImm f | strImm f | ldrLit f | ldrImm f | strbImm f | ldrbLit f
      | ldrbImm f =>
    exact rebuild_recordLsImm (by simp [hwf, Identifier.unprivileged])
  case strtReg f | ldrtReg f | strbtReg f | ldrbtReg f | strReg f | ldrReg f | strbReg f | ldrbReg f =>
    exact rebuild_recordLsReg (by simp [hwf, Identifier.unprivileged])
  case strht f | ldrht f | ldrsbt f | ldrsht f | strhReg f | strhImm f | ldrhReg f | ldrhLit f | ldrhImm f
      | ldrsbReg f | ldrsbLit f | ldrsbImm f | ldrshReg f | ldrshLit f | ldrshImm f =>
    exact rebuild_recordXls (by simp [hwf, Identifier.unprivileged]) fun hi => by
      simpa using hhi (recordXls_format _ hi)
  case ldrdReg f | ldrdLit f | ldrdImm f | strdReg f | strdImm f =>
    have hpriv : (!f.p && f.w) = false := by
      simpa [recordXls_id, -BitVec.getLsbD_eq_getElem] using hdual
    exact rebuild_recordXls hpriv fun hi => by simpa using hhi (recordXls_format _ hi)
  all_goals rcases hcat with hcat | hcat <;> cases hcat

/-- Settles O6: the word's row is well-formed, and `classify` gives the row's record. -/
theorem recordRebuildsWord : Obligations.RecordRebuildsWord := fun w =>
  rebuild_of_isRowOf (decodeWord_isRowOf w) (wordRecord_decodeWord w)

end Sys2Proof.Machine

/-! ### The condition field is extracted and never evaluated (R102, R308) -/

namespace Sys2Proof

/-- The word with another `cond` in `w[31:28]`. -/
def withCond (c : BitVec 4) (w : Word) : Word := c ++ w.extractLsb' 0 28

theorem withCond_getLsbD (c : BitVec 4) (w : Word) {n : Nat} (h : n < 28) :
    (withCond c w).getLsbD n = w.getLsbD n := by
  simp only [withCond, BitVec.getLsbD_append, BitVec.getLsbD_extractLsb', h, decide_true, if_true, Bool.true_and,
    Nat.zero_add]

theorem withCond_extractLsb' (c : BitVec 4) (w : Word) {start len : Nat} (h : start + len ≤ 28) :
    (withCond c w).extractLsb' start len = w.extractLsb' start len := by
  apply BitVec.eq_of_getLsbD_eq
  intro i hi
  rw [BitVec.getLsbD_extractLsb', BitVec.getLsbD_extractLsb', withCond_getLsbD c w (by omega)]

theorem withCond_cond (c : BitVec 4) (w : Word) : (withCond c w).extractLsb' 28 4 = c := by
  apply BitVec.eq_of_getLsbD_eq
  intro i hi
  simp only [withCond, BitVec.getLsbD_extractLsb', BitVec.getLsbD_append, hi, decide_true, Bool.true_and,
    Nat.not_lt.2 (Nat.le_add_right 28 i), if_false, Nat.add_sub_cancel_left]

end Sys2Proof

namespace Sys2Proof.Machine

theorem classifyRegular_withCond (c : BitVec 4) (w : Word) :
    classifyRegular (withCond c w) = { classifyRegular w with cond := c } := by
  simp (disch := decide) only [classifyRegular, LsImm.ofWord, LsReg.ofWord, withCond_getLsbD, withCond_extractLsb',
    withCond_cond]
  cases w.getLsbD 25 <;> rfl

theorem recordXls_withCond (id : Identifier) (f : Xls) (c : BitVec 4) :
    recordXls id { f with cond := c } = { recordXls id f with cond := c } := by
  unfold recordXls
  cases f.i <;> rfl

theorem classifyExtra_withCond (c : BitVec 4) (w : Word) :
    classifyExtra (withCond c w) = { classifyExtra w with cond := c } := by
  have hfields : Xls.ofWord (withCond c w) = { Xls.ofWord w with cond := c } := by
    simp (disch := decide) only [Xls.ofWord, withCond_getLsbD, withCond_extractLsb', withCond_cond]
  simp (disch := decide) only [classifyExtra, extraForm, hfields, withCond_getLsbD, withCond_extractLsb',
    recordXls_withCond]

theorem classifyNotMem_withCond (c : BitVec 4) (w : Word) :
    classifyNotMem (withCond c w) = { classifyNotMem w with cond := c } := by
  rw [classifyNotMem, withCond_cond]
  rfl

theorem classifySync_withCond (c : BitVec 4) (w : Word) :
    classifySync (withCond c w) = { classifySync w with cond := c } := by
  simp (disch := decide) only [classifySync, classifyNotMem_withCond, Sync.ofWord, withCond_extractLsb', withCond_cond]
  cases syncName (w.extractLsb' 20 4) <;> rfl

theorem classifyBlock_withCond (c : BitVec 4) (w : Word) :
    classifyBlock (withCond c w) = { classifyBlock w with cond := c } := by
  simp (disch := decide) only [classifyBlock, Blk.ofWord, withCond_getLsbD, withCond_extractLsb', withCond_cond]
  rfl

theorem classifyCoproc_withCond (c : BitVec 4) (w : Word) :
    classifyCoproc (withCond c w) = { classifyCoproc w with cond := c } := by
  simp (disch := decide) only [classifyCoproc, classifyNotMem_withCond, CpLs.ofWord, CpRt.ofWord, withCond_getLsbD,
    withCond_extractLsb', withCond_cond]
  split_ifs <;> rfl

/-- Two words that differ in `cond` alone have records that differ in `cond` alone: no test reads `w[31:28]` (R102). -/
theorem classify_withCond (c : BitVec 4) (w : Word) : classify (withCond c w) = { classify w with cond := c } := by
  simp (disch := decide) only [classify, withCond_getLsbD, withCond_extractLsb', classifyRegular_withCond,
    classifyExtra_withCond, classifyNotMem_withCond, classifySync_withCond, classifyBlock_withCond,
    classifyCoproc_withCond]
  split_ifs <;> rfl

/-- The fetch neither reads nor writes the record in `cur` (R302, R333). -/
theorem Block.fetch_withCur (b : Block) (r : Classification) (v : Word) :
    Block.fetch { b with cur := r } v = ({ (b.fetch v).1 with cur := r }, (b.fetch v).2) := by
  rw [Block.fetch_eq, Block.fetch_eq]
  unfold fetchEffect
  by_cases htext : InText b v
  · rw [if_pos htext, if_pos htext]
    obtain ⟨icache, dcache, l2, seeds, insns, loads, stores, textStart, textEnd, armEnable, cur, injState, plan⟩ := b
    cases plan with
    | none => cases injState <;> rfl
    | some p =>
      cases injState with
      | fired => rfl
      | armed =>
        dsimp only
        split_ifs <;> rfl
  · rw [if_neg htext, if_neg htext]

/-- The cache-control part reads the operation and the register of the record, not its `cond` (R303, R308). -/
theorem Block.cacheControl_withCond (b : Block) (c : BitVec 4) (g : Vector Word 16) :
    Block.cacheControl { b with cur := { b.cur with cond := c } } g
      = { b.cacheControl g with cur := { b.cur with cond := c } } := by
  have hop : Classification.cacheOp { b.cur with cond := c } = b.cur.cacheOp := rfl
  simp only [Block.cacheControl, hop]
  by_cases harm : b.armEnable = true
  · rw [if_pos harm, if_pos harm]
    cases b.cur.cacheOp <;> rfl
  · rw [if_neg harm, if_neg harm]

/-- A word acts alike under every `cond`, and leaves its own in `cur` (R102, R308). -/
theorem Block.runWord_withCond (b : Block) (r : Classification) (c : BitVec 4) (v : Word) (g : Vector Word 16) :
    b.runWord { r with cond := c } v g =
      ({ (b.runWord r v g).1 with cur := { (b.runWord r v g).1.cur with cond := c } }, (b.runWord r v g).2) := by
  have hcontrol := Block.cacheControl_withCond { (b.fetch v).1 with cur := r } c g
  rw [Block.runWord_cur]
  simp only [Block.runWord, Block.fetch_withCur]
  exact Prod.ext hcontrol rfl

/-- Settles O7: both words run one record but for its `cond`, which neither the fetch nor the cache control reads. -/
theorem conditionIsNotEvaluated : Obligations.ConditionIsNotEvaluated := by
  intro w c v g s t h
  change exec (.insnExec v (bytesOfWord (withCond c w)) g) s = _
  rw [exec_insnExec_bytesOfWord] at h ⊢
  obtain ⟨b, hb, rfl⟩ := State.onBlock_next h
  rw [classify_withCond, State.onWord, State.onBlock_some _ b _ hb]
  simp only [Block.runWord_withCond, Option.map_some]

end Sys2Proof.Machine

/-! ### Which row of the opcode table is the first to fit, by the bits that are known of a word (R100) -/

namespace Sys2Proof

/-- The word fits a row of the table: `word & mask = match` (R100). -/
def Fits (w : Word) (r : Word × Word) : Prop := w &&& r.1 = r.2

/-- The bits of the word that stand in the mask `k` are those of `u`. -/
def Known (w k u : Word) : Prop := w &&& k = u

/-- The mask of the field `w[start + len - 1 : start]`. -/
def fieldMask (start len : Nat) : Word := BitVec.ofNat 32 ((2 ^ len - 1) * 2 ^ start)

theorem fieldMask_getLsbD (start len : Nat) {n : Nat} (hn : n < 32) :
    (fieldMask start len).getLsbD n = decide (start ≤ n ∧ n < start + len) := by
  rw [fieldMask, BitVec.getLsbD_ofNat, Nat.testBit_mul_two_pow, Nat.testBit_two_pow_sub_one, Bool.eq_iff_iff]
  simp only [Bool.and_eq_true, decide_eq_true_eq, hn, true_and]
  omega

theorem known_field {w : Word} {start len : Nat} {x : BitVec len} (h : w.extractLsb' start len = x) :
    Known w (fieldMask start len) (BitVec.ofNat 32 (x.toNat * 2 ^ start)) := by
  subst h
  apply BitVec.eq_of_getLsbD_eq
  intro i hi
  rw [BitVec.getLsbD_and, fieldMask_getLsbD start len hi, BitVec.getLsbD_ofNat, Nat.testBit_mul_two_pow,
    BitVec.testBit_toNat, BitVec.getLsbD_extractLsb']
  by_cases hs : start ≤ i
  · rw [Nat.add_sub_cancel' hs, Bool.and_comm]
    simp only [hs, hi, decide_true, Bool.true_and, true_and, show i < start + len ↔ i - start < len by omega]
  · simp [hs]

theorem Known.and {w k u k' u' : Word} (h : Known w k u) (h' : Known w k' u') : Known w (k ||| k') (u ||| u') := by
  unfold Known at *
  rw [← h, ← h', BitVec.and_or_distrib_left]

theorem Known.field {w k u : Word} (h : Known w k u) {start len : Nat} {x : BitVec len}
    (hx : w.extractLsb' start len = x) :
    Known w (k ||| fieldMask start len) (u ||| BitVec.ofNat 32 (x.toNat * 2 ^ start)) :=
  h.and (known_field hx)

theorem Known.bit {w k u : Word} (h : Known w k u) {n : Nat} {x : Bool} (hx : w.getLsbD n = x) :
    Known w (k ||| fieldMask n 1) (u ||| BitVec.ofNat 32 ((BitVec.ofBool x).toNat * 2 ^ n)) := by
  refine h.field (BitVec.eq_of_getLsbD_eq fun i hi => ?_)
  obtain rfl : i = 0 := by omega
  simpa using hx

/-- The known bits contradict the row. -/
def clashes (k u : Word) (r : Word × Word) : Bool := r.1 &&& k &&& (r.2 ^^^ u) != 0#32

/-- The known bits hold what the row tests. -/
def implied (k u : Word) (r : Word × Word) : Bool := r.1 &&& k == r.1 && u &&& r.1 == r.2

theorem Known.not_fits {w k u : Word} (h : Known w k u) {r : Word × Word} (hr : clashes k u r = true) : ¬Fits w r := by
  intro hfits
  rw [clashes, bne_iff_ne] at hr
  apply hr
  rw [← show w &&& r.1 = r.2 from hfits, ← show w &&& k = u from h]
  apply BitVec.eq_of_getLsbD_eq
  intro i hi
  simp only [BitVec.getLsbD_and, BitVec.getLsbD_xor, BitVec.getLsbD_zero]
  cases r.1.getLsbD i <;> cases k.getLsbD i <;> simp

theorem Known.fits {w k u : Word} (h : Known w k u) {r : Word × Word} (hr : implied k u r = true) : Fits w r := by
  rw [implied, Bool.and_eq_true, beq_iff_eq, beq_iff_eq] at hr
  calc w &&& r.1 = w &&& (r.1 &&& k) := by rw [hr.1]
    _ = w &&& k &&& r.1 := by rw [BitVec.and_comm r.1, BitVec.and_assoc]
    _ = r.2 := by rw [show w &&& k = u from h, hr.2]

/-- By the known bits the word fits row `n` and no row before it, the rows `skip` aside. -/
def firstKnown (k u : Word) (skip : List (Word × Word)) (n : Nat) : Bool :=
  (opcodeTable.take n).all (fun r => clashes k u r || skip.contains r) && (opcodeTable[n]?).any (implied k u)

/-- The first row that fits, found by the known bits and rows known not to fit. -/
theorem Known.firstMatch_eq {w k u : Word} (h : Known w k u) {skip : List (Word × Word)} (hskip : ∀ r ∈ skip, ¬Fits w r)
    {n : Nat} (hn : firstKnown k u skip n = true) : firstMatch w = n := by
  rw [firstKnown, Bool.and_eq_true, List.all_eq_true, Option.any_eq_true] at hn
  obtain ⟨hbefore, r, hr, himplied⟩ := hn
  obtain ⟨hlen, rfl⟩ := List.getElem?_eq_some_iff.1 hr
  refine (List.findIdx_eq hlen).2 ⟨beq_iff_eq.2 (h.fits himplied), fun j hj => ?_⟩
  rw [beq_eq_false_iff_ne]
  have hmem : opcodeTable[j] ∈ opcodeTable.take n := List.mem_take_iff_getElem.2 ⟨j, by omega, rfl⟩
  rcases (Bool.or_eq_true _ _).mp (hbefore _ hmem) with hclash | hcontains
  · exact h.not_fits hclash
  · exact hskip _ (List.contains_iff_mem.1 hcontains)

/-- The known bits alone find the first row that fits. -/
theorem Known.firstMatch_of_bits {w k u : Word} (h : Known w k u) {n : Nat} (hn : firstKnown k u [] n = true) :
    firstMatch w = n :=
  h.firstMatch_eq (skip := []) (fun _ hr => absurd hr List.not_mem_nil) hn

/-- A row that tests a whole field fits only words with the row's value there. -/
theorem Fits.field {w : Word} {r : Word × Word} (h : Fits w r) {start len : Nat}
    (hmask : r.1 &&& fieldMask start len = fieldMask start len) :
    w.extractLsb' start len = r.2.extractLsb' start len := by
  rw [← show w &&& r.1 = r.2 from h]
  apply BitVec.eq_of_getLsbD_eq
  intro i hi
  simp only [BitVec.getLsbD_extractLsb', BitVec.getLsbD_and, hi, decide_true, Bool.true_and]
  by_cases hlen : start + i < 32
  · have hbit := congrArg (·.getLsbD (start + i)) hmask
    simp only [BitVec.getLsbD_and, fieldMask_getLsbD _ _ hlen, Nat.le_add_right, Nat.add_lt_add_left hi, and_self,
      decide_true, Bool.and_true] at hbit
    rw [hbit, Bool.and_true]
  · simp only [BitVec.getLsbD_of_ge _ _ (Nat.le_of_not_lt hlen), Bool.false_and]

/-- Rows that test a whole field for `x` do not fit a word with another value there. -/
theorem not_fits_of_field {w : Word} {start len : Nat} {x : BitVec len} (hx : w.extractLsb' start len ≠ x)
    {rows : List (Word × Word)}
    (hrows : rows.all (fun r => r.1 &&& fieldMask start len == fieldMask start len && r.2.extractLsb' start len == x)
      = true) :
    ∀ r ∈ rows, ¬Fits w r := by
  intro r hr hfits
  obtain ⟨hmask, hvalue⟩ : r.1 &&& fieldMask start len = fieldMask start len ∧ r.2.extractLsb' start len = x := by
    simpa using List.all_eq_true.1 hrows r hr
  exact hx ((hfits.field hmask).trans hvalue)

/-! ### The opcode table is the decoder (R100) -/

/-- The literal rows test `w[19:16]` for the program counter (R204, R211, R221, R225, R228, R234, R276). -/
def literalRows : List (Word × Word) :=
  [(0x0E5F0000#32, 0x041F0000#32), (0x0E5F0000#32, 0x045F0000#32), (0x0E5F00F0#32, 0x005F00B0#32),
    (0x0E5F00F0#32, 0x004F00D0#32), (0x0E5F00F0#32, 0x005F00D0#32), (0x0E5F00F0#32, 0x005F00F0#32),
    (0x0E1F0000#32, 0x0C1F0000#32)]

theorem not_fits_literalRows {w : Word} (h : w.extractLsb' 16 4 ≠ 15#4) : ∀ r ∈ literalRows, ¬Fits w r :=
  not_fits_of_field h (by decide)

/-- POP and PUSH test `w[19:16]` for the stack pointer (R264, R266). -/
def stackRows : List (Word × Word) := [(0x0FFF0000#32, 0x08BD0000#32), (0x0FFF0000#32, 0x092D0000#32)]

theorem not_fits_stackRows {w : Word} (h : w.extractLsb' 16 4 ≠ 13#4) : ∀ r ∈ stackRows, ¬Fits w r :=
  not_fits_of_field h (by decide)

/-- The row of `FP_COPROC` (R98, R99). -/
def fpCoprocRows : List (Word × Word) := [(0x0C000F00#32, 0x0C000A00#32)]

theorem not_fits_fpCoprocRows {w : Word} (h : w.extractLsb' 8 4 ≠ Config.fpCoproc) : ∀ r ∈ fpCoprocRows, ¬Fits w r :=
  not_fits_of_field h (by decide)

theorem firstMatch_decodeRegularReg {w : Word} (htop : w.extractLsb' 25 3 = 0b011#3) (h4 : w.getLsbD 4 = false) :
    firstMatch w = (decodeRegularReg w).ctorIdx := by
  have hknown := (known_field htop).bit h4
  dsimp only [decodeRegularReg]
  rcases Bool.eq_false_or_eq_true (w.getLsbD 20) with hload | hload <;>
    rcases Bool.eq_false_or_eq_true (w.getLsbD 22) with hbyte | hbyte <;>
    cases hp : (LsReg.ofWord w).p <;> cases hw : (LsReg.ofWord w).w <;> rw [hload, hbyte] <;>
    dsimp [Instr.ctorIdx] <;>
    exact ((((hknown.bit hload).bit hbyte).bit hp).bit hw).firstMatch_of_bits (by decide)

theorem firstMatch_decodeRegularImm {w : Word} (htop : w.extractLsb' 25 3 = 0b010#3) :
    firstMatch w = (decodeRegularImm w).ctorIdx := by
  have hknown := known_field htop
  dsimp only [decodeRegularImm]
  rcases Bool.eq_false_or_eq_true (w.getLsbD 20) with hload | hload <;>
    rcases Bool.eq_false_or_eq_true (w.getLsbD 22) with hbyte | hbyte <;>
    cases hp : (LsImm.ofWord w).p <;> cases hw : (LsImm.ofWord w).w <;> rw [hload, hbyte]
  all_goals
    have hbits := (((hknown.bit hload).bit hbyte).bit hp).bit hw
    cases hlit : (LsImm.ofWord w).rn == 15#4 with
    | false =>
      dsimp [Instr.ctorIdx]
      exact hbits.firstMatch_eq (not_fits_literalRows (beq_eq_false_iff_ne.1 hlit)) (by decide)
    | true =>
      dsimp [Instr.ctorIdx]
      exact (hbits.field (beq_iff_eq.1 hlit)).firstMatch_of_bits (by decide)

theorem firstMatch_decodeSync {w : Word} (htop : w.extractLsb' 25 3 = 0b000#3) (h24 : w.getLsbD 24 = true)
    (hmul : w.extractLsb' 4 4 = 0b1001#4) : firstMatch w = (decodeSync w).ctorIdx := by
  have hknown := ((known_field htop).bit h24).field hmul
  dsimp only [decodeSync]
  generalize hop : w.extractLsb' 20 4 = op
  rcases syncOp_cases op with hcase | hcase
  · rcases hcase with rfl | rfl | rfl | rfl | rfl | rfl | rfl | rfl | rfl | rfl <;> dsimp [Instr.ctorIdx] <;>
      exact (hknown.field hop).firstMatch_of_bits (by decide)
  · rcases hcase with rfl | rfl | rfl | rfl | rfl | rfl <;> dsimp [Instr.ctorIdx] <;>
      exact (hknown.field hop).firstMatch_of_bits (by decide)

theorem firstMatch_decodeExtra {w : Word} (htop : w.extractLsb' 25 3 = 0b000#3) (h7 : w.getLsbD 7 = true)
    (h4 : w.getLsbD 4 = true) (hop : w.extractLsb' 5 2 ≠ 0b00#2) : firstMatch w = (decodeExtra w).ctorIdx := by
  have hknown := ((known_field htop).bit h7).bit h4
  dsimp only [decodeExtra]
  rcases op2_cases hop with hop2 | hop2 | hop2 <;> rcases Bool.eq_false_or_eq_true (w.getLsbD 20) with hload | hload <;>
    cases hp : (Xls.ofWord w).p <;> cases hi : (Xls.ofWord w).i <;> cases hw : (Xls.ofWord w).w <;> rw [hop2, hload]
  all_goals
    have hbits := ((((hknown.field hop2).bit hload).bit hp).bit hi).bit hw
    cases hlit : (Xls.ofWord w).rn == 15#4 with
    | false =>
      dsimp [Instr.ctorIdx]
      exact hbits.firstMatch_eq (not_fits_literalRows (beq_eq_false_iff_ne.1 hlit)) (by decide)
    | true =>
      dsimp [Instr.ctorIdx]
      exact (hbits.field (beq_iff_eq.1 hlit)).firstMatch_of_bits (by decide)

theorem firstMatch_decodeZero {w : Word} (htop : w.extractLsb' 25 3 = 0b000#3) :
    firstMatch w = (decodeZero w).ctorIdx := by
  have hknown := known_field htop
  unfold decodeZero
  cases h74 : w.getLsbD 7 && w.getLsbD 4 with
  | false =>
    rcases (Bool.and_eq_false_iff).1 h74 with h7 | h4
    · exact (hknown.bit h7).firstMatch_of_bits (n := 50) (by decide)
    · exact (hknown.bit h4).firstMatch_of_bits (n := 50) (by decide)
  | true =>
    obtain ⟨h7, h4⟩ := (Bool.and_eq_true _ _).mp h74
    simp only [if_true]
    split_ifs with hop h24
    · exact firstMatch_decodeSync htop h24 (extract_bits7to4 h7 h4 hop)
    · exact ((hknown.field (extract_bits7to4 h7 h4 hop)).bit (Bool.eq_false_iff.2 h24)).firstMatch_of_bits (n := 29)
        (by decide)
    · exact firstMatch_decodeExtra htop h7 h4 hop

theorem firstMatch_decodeBlock {w : Word} (htop : w.extractLsb' 25 3 = 0b100#3) :
    firstMatch w = (decodeBlock w).ctorIdx := by
  have hknown := known_field htop
  dsimp only [decodeBlock]
  cases hs : (Blk.ofWord w).s with
  | true =>
    rcases Bool.eq_false_or_eq_true (w.getLsbD 20) with hload | hload <;> rw [hload]
    · cases hpc : (Blk.ofWord w).registerList.getLsbD 15 with
      | false =>
        rw [Blk.ofWord_bit15] at hpc
        exact (((hknown.bit hs).bit hload).bit hpc).firstMatch_of_bits (n := 53) (by decide)
      | true =>
        rw [Blk.ofWord_bit15] at hpc
        exact (((hknown.bit hs).bit hload).bit hpc).firstMatch_of_bits (n := 52) (by decide)
    · exact ((hknown.bit hs).bit hload).firstMatch_of_bits (n := 51) (by decide)
  | false =>
    rcases Bool.eq_false_or_eq_true (w.getLsbD 20) with hload | hload <;>
      cases hp : (Blk.ofWord w).p <;> cases hu : (Blk.ofWord w).u <;> cases hw : (Blk.ofWord w).w <;> rw [hload]
    all_goals
      have hbits := ((((hknown.bit hs).bit hload).bit hp).bit hu).bit hw
      cases hsp : (Blk.ofWord w).rn == 13#4 with
      | false =>
        dsimp [Instr.ctorIdx]
        exact hbits.firstMatch_eq (not_fits_stackRows (beq_eq_false_iff_ne.1 hsp)) (by decide)
      | true =>
        dsimp [Instr.ctorIdx]
        exact (hbits.field (beq_iff_eq.1 hsp)).firstMatch_of_bits (by decide)

theorem firstMatch_decodeCoprocLs {w : Word} (htop : w.extractLsb' 25 3 = 0b110#3)
    (hcp : w.extractLsb' 8 4 ≠ Config.fpCoproc) : firstMatch w = (decodeCoprocLs w).ctorIdx := by
  have hknown := known_field htop
  have hfp := not_fits_fpCoprocRows hcp
  dsimp only [decodeCoprocLs]
  rcases Bool.eq_false_or_eq_true (w.getLsbD 20) with hload | hload <;>
    cases hp : (CpLs.ofWord w).p <;> cases hu : (CpLs.ofWord w).u <;> cases hw : (CpLs.ofWord w).w <;> rw [hload]
  all_goals
    have hbits := (((hknown.bit hload).bit hp).bit hu).bit hw
    cases hlit : (CpLs.ofWord w).rn == 15#4 with
    | false =>
      have hskip := List.forall_mem_append.2 ⟨hfp, not_fits_literalRows (beq_eq_false_iff_ne.1 hlit)⟩
      dsimp [Instr.ctorIdx]
      exact hbits.firstMatch_eq hskip (by decide)
    | true =>
      dsimp [Instr.ctorIdx]
      exact (hbits.field (beq_iff_eq.1 hlit)).firstMatch_eq hfp (by decide)

/-- The rows of DCISW and ICIALLU (R281, R282). -/
def cacheControlRows : List (Word × Word) := [(0x0FFF0FFF#32, 0x0E070E56#32), (0x0FFF0FFF#32, 0x0E070E15#32)]

/-- A transfer without either operand set fits neither row (R280). -/
theorem not_fits_cacheControlRows {w : Word} (h : (CpRt.ofWord w).isCacheControl = false) :
    ∀ r ∈ cacheControlRows, ¬Fits w r := by
  intro r hr hfits
  refine Bool.eq_false_iff.1 h ?_
  simp only [CpRt.isCacheControl, CpRt.ofWord]
  rcases List.mem_pair.1 hr with rfl | rfl
  all_goals
    rw [hfits.field (start := 8) (by decide), hfits.field (start := 21) (by decide),
      hfits.field (start := 16) (by decide), hfits.field (start := 0) (by decide), hfits.field (start := 5) (by decide)]
    decide

theorem firstMatch_decodeCoprocRt {w : Word} (htop : w.extractLsb' 25 3 = 0b111#3) (h24 : w.getLsbD 24 = false)
    (h4 : w.getLsbD 4 = true) (hcp : w.extractLsb' 8 4 ≠ Config.fpCoproc) :
    firstMatch w = (decodeCoprocRt w).ctorIdx := by
  have hknown := ((known_field htop).bit h24).bit h4
  have hfp := not_fits_fpCoprocRows hcp
  dsimp only [decodeCoprocRt]
  rcases Bool.eq_false_or_eq_true (w.getLsbD 20) with hload | hload <;> rw [hload]
  · exact (hknown.bit hload).firstMatch_eq hfp (n := 73) (by decide)
  · simp only [Bool.false_eq_true, if_false]
    split_ifs with hdcisw hiciallu
    · simp only [Bool.and_eq_true, beq_iff_eq] at hdcisw
      obtain ⟨⟨⟨⟨hcoproc, hopc1⟩, hcrn⟩, hcrm⟩, hopc2⟩ := hdcisw
      exact ((((((hknown.bit hload).field hcoproc).field hopc1).field hcrn).field hcrm).field hopc2).firstMatch_of_bits
        (n := 70) (by decide)
    · simp only [Bool.and_eq_true, beq_iff_eq] at hiciallu
      obtain ⟨⟨⟨⟨hcoproc, hopc1⟩, hcrn⟩, hcrm⟩, hopc2⟩ := hiciallu
      exact ((((((hknown.bit hload).field hcoproc).field hopc1).field hcrn).field hcrm).field hopc2).firstMatch_of_bits
        (n := 71) (by decide)
    · have hnone : (CpRt.ofWord w).isCacheControl = false := by
        rw [CpRt.isCacheControl_eq, Bool.or_eq_false_iff]
        exact ⟨Bool.eq_false_iff.2 hdcisw, Bool.eq_false_iff.2 hiciallu⟩
      exact (hknown.bit hload).firstMatch_eq (List.forall_mem_append.2 ⟨hfp, not_fits_cacheControlRows hnone⟩) (n := 72)
        (by decide)

theorem firstMatch_decodeCoproc {w : Word} (htop : w.extractLsb' 25 3 = 0b110#3 ∨ w.extractLsb' 25 3 = 0b111#3) :
    firstMatch w = (decodeCoproc w).ctorIdx := by
  have h25 : w.getLsbD 25 = (w.extractLsb' 25 3).getLsbD 0 := by simp
  unfold decodeCoproc
  cases hfp : w.extractLsb' 8 4 == Config.fpCoproc with
  | true =>
    rcases htop with htop | htop <;>
      exact ((known_field htop).field (beq_iff_eq.1 hfp)).firstMatch_of_bits (n := 65) (by decide)
  | false =>
    have hcp := beq_eq_false_iff_ne.1 hfp
    rcases htop with htop | htop <;> rw [htop] at h25 <;> rw [h25]
    · exact firstMatch_decodeCoprocLs htop hcp
    · cases hother : w.getLsbD 24 || !w.getLsbD 4 with
      | true =>
        have hskip := not_fits_fpCoprocRows hcp
        rcases (Bool.or_eq_true _ _).mp hother with h24 | h4
        · exact ((known_field htop).bit h24).firstMatch_eq hskip (n := 74) (by decide)
        · exact ((known_field htop).bit ((Bool.not_eq_true' _).mp h4)).firstMatch_eq hskip (n := 74) (by decide)
      | false =>
        obtain ⟨h24, h4⟩ := (Bool.or_eq_false_iff).1 hother
        exact firstMatch_decodeCoprocRt htop h24 (by simpa using h4) hcp

theorem firstMatch_decodeWord (w : Word) : firstMatch w = (decodeWord w).ctorIdx := by
  dsimp only [decodeWord]
  split_ifs with h0 h1 h2 h3 hmedia h4 h5
  · exact firstMatch_decodeZero h0
  · exact (known_field h1).firstMatch_of_bits (n := 50) (by decide)
  · exact firstMatch_decodeRegularImm h2
  · exact ((known_field h3).bit hmedia).firstMatch_of_bits (n := 18) (by decide)
  · exact firstMatch_decodeRegularReg h3 (Bool.eq_false_iff.2 hmedia)
  · exact firstMatch_decodeBlock h4
  · exact (known_field h5).firstMatch_of_bits (n := 64) (by decide)
  · exact firstMatch_decodeCoproc (top_of_coproc h0 h1 h2 h3 h4 h5)

/-- Settles O3: in every branch of the decoder the bits it has tested find the first row that fits. -/
theorem opcodeTableIsTheDecoder : Obligations.OpcodeTableIsTheDecoder := firstMatch_decodeWord

end Sys2Proof

/-! ### An engine command on its cache (40_cache_engine.md, R109, R171) -/

namespace Sys2Proof.Machine

/-- An engine operation puts its cache's new state into the block and appends its results (R171). -/
theorem State.onCache_eq {s : State} {b : Block} (hb : s.block = some b) {c : CacheId}
    {op : Cache → Cache × List Output} {k : Cache} {out : List Output} (hop : op (b.cache c) = (k, out)) :
    s.onCache c op = .next { s with block := some (b.withCache c k), outputs := s.outputs ++ out } := by
  rw [State.onCache, State.onBlock_some s b _ hb, hop]

/-- An engine operation that leaves its cache as it is appends its results and does nothing else (R171). -/
theorem State.onCache_eq_of_unchanged {s : State} {b : Block} (hb : s.block = some b) {c : CacheId}
    {op : Cache → Cache × List Output} {out : List Output} (hop : op (b.cache c) = (b.cache c, out)) :
    s.onCache c op = .next { s with outputs := s.outputs ++ out } := by
  rw [State.onCache_eq hb hop, Block.withCache_cache, ← hb]

/-- An engine operation that has no result changes its cache alone (R171). -/
theorem State.onCache_eq_of_silent {s : State} {b : Block} (hb : s.block = some b) {c : CacheId}
    {op : Cache → Cache × List Output} {k : Cache} (hop : op (b.cache c) = (k, [])) :
    s.onCache c op = .next { s with block := some (b.withCache c k) } := by
  rw [State.onCache_eq hb hop, List.append_nil]

/-- A block with one cache put back as it stands. -/
theorem State.withBlock_withCache_same {s : State} {b : Block} (hb : s.block = some b) (c : CacheId) :
    { s with block := some (b.withCache c (b.cache c)) } = s := by
  rw [Block.withCache_cache, ← hb]

/-- The command `load` is the load of its cache (R137). -/
theorem exec_load {s : State} {b : Block} (hb : s.block = some b) {c : CacheId} {a : Word} {r : Access} {k : Cache}
    (hload : (b.cache c).load a = (r, k)) :
    exec (.load c a) s = .next { s with block := some (b.withCache c k), outputs := s.outputs ++ [.access r] } := by
  rw [exec, execLoad, State.onCache_eq hb rfl, hload]

/-- The command `store` is the store of its cache (R138). -/
theorem exec_store {s : State} {b : Block} (hb : s.block = some b) {c : CacheId} {a : Word} {r : Access} {k : Cache}
    (hstore : (b.cache c).store a = (r, k)) :
    exec (.store c a) s = .next { s with block := some (b.withCache c k), outputs := s.outputs ++ [.access r] } := by
  rw [exec, execStore, State.onCache_eq hb rfl, hstore]

/-- The command `invalidate_block` is that of its cache (R139). -/
theorem exec_invalidateBlock {s : State} {b : Block} (hb : s.block = some b) {c : CacheId} {row way : Nat} {k : Cache}
    (hk : (b.cache c).invalidateBlock row way = k) :
    exec (.invalidateBlock c row way) s = .next { s with block := some (b.withCache c k) } := by
  rw [exec, execInvalidateBlock, State.onCache_eq_of_silent hb rfl, hk]

/-- The command `invalidate_all` is that of its cache (R140). -/
theorem exec_invalidateAll {s : State} {b : Block} (hb : s.block = some b) {c : CacheId} {k : Cache}
    (hk : (b.cache c).invalidateAll = k) :
    exec (.invalidateAll c) s = .next { s with block := some (b.withCache c k) } := by
  rw [exec, execInvalidateAll, State.onCache_eq_of_silent hb rfl, hk]

/-- The command `get_addr` outputs that of its cache (R141). -/
theorem exec_getAddr {s : State} {b : Block} (hb : s.block = some b) (c : CacheId) (row way : Nat) :
    exec (.getAddr c row way) s
      = .next { s with outputs := s.outputs ++ [.address ((b.cache c).getAddr row way)] } := by
  rw [exec, execGetAddr, State.onCache_eq_of_unchanged hb rfl]

/-- The command `is_block_valid` outputs that of its cache (R142). -/
theorem exec_isBlockValid {s : State} {b : Block} (hb : s.block = some b) (c : CacheId) (row way : Nat) :
    exec (.isBlockValid c row way) s
      = .next { s with outputs := s.outputs ++ [.flag ((b.cache c).isBlockValid row way)] } := by
  rw [exec, execIsBlockValid, State.onCache_eq_of_unchanged hb rfl]

/-- The command `validate_injection` outputs that of its cache (R143). -/
theorem exec_validateInjection {s : State} {b : Block} (hb : s.block = some b) (c : CacheId) (row way word : Nat) :
    exec (.validateInjection c row way word) s
      = .next { s with outputs := s.outputs ++ [.validation ((b.cache c).validateInjection row way word)] } := by
  rw [exec, execValidateInjection, State.onCache_eq_of_unchanged hb rfl]

/-- The command `teardown` is that of its cache (R145). -/
theorem exec_teardown {s : State} {b : Block} (hb : s.block = some b) (c : CacheId) :
    exec (.teardown c) s = .next { s with block := some (b.withCache c (b.cache c).teardown) } := by
  rw [exec, execTeardown, State.onCache_eq_of_silent hb rfl]

/-! ### The probes (R141 to R144) -/

/-- `get_addr` of a valid entry (R141). -/
theorem Cache.getAddr_of_valid {c : Cache} {row way : Nat} (h : c.isBlockValid row way = true) :
    c.getAddr row way
      = ((c.entry row way).tag <<< (c.blockOffsetBits + c.rowBits)) ||| (BitVec.ofNat 32 row <<< c.blockOffsetBits) := by
  rw [Cache.getAddr, if_pos h]
  rfl

/-- `get_addr` of everything else (R141). -/
theorem Cache.getAddr_of_not_valid {c : Cache} {row way : Nat} (h : ¬c.isBlockValid row way = true) :
    c.getAddr row way = 0#32 := by
  rw [Cache.getAddr, if_neg h]

/-- `validate_injection` as one choice of three (R143). -/
theorem Cache.validateInjection_eq (c : Cache) (row way word : Nat) :
    c.validateInjection row way word =
      if c.live = false then .invalidCache
      else if row < c.rows ∧ way < c.assoc ∧ word < c.blockSize / 4 then .ok
      else .rangeError := by
  unfold Cache.validateInjection Cache.inRange Config.wordBytes
  simp only [Bool.not_eq_true', Bool.and_eq_true, decide_eq_true_eq, and_assoc]

/-- Settles O28: the probe tests the four conditions of the rule. -/
theorem getAddrCommandResult : Obligations.GetAddrCommandResult := by
  intro c row way s b hb k valid
  rw [exec_getAddr hb]
  have hprobe := k.isBlockValid_iff row way
  constructor
  · intro hvalid
    rw [Cache.getAddr_of_valid (hprobe.2 hvalid)]
  · intro hvalid
    rw [Cache.getAddr_of_not_valid fun h => hvalid (hprobe.1 h)]

/-- Settles O29: the model's range test is the conjunction of the two bounds. -/
theorem isBlockValidCommandResult : Obligations.IsBlockValidCommandResult := by
  intro c row way s b hb k
  rw [exec_isBlockValid hb, Cache.isBlockValid, Cache.inRange, ← Bool.and_assoc]

/-- Settles O30: the command outputs the choice of `validateInjection_eq`. -/
theorem validateInjectionCommandResult : Obligations.ValidateInjectionCommandResult := by
  intro c row way word s b hb k
  rw [exec_validateInjection hb, Cache.validateInjection_eq]

/-- Settles O31: the counters are read whether or not the cache is live. -/
theorem statsCommandResult : Obligations.StatsCommandResult := by
  intro c s b hb
  rw [exec, execStats, State.onCache_eq_of_unchanged hb rfl, Cache.stats]

/-! ### A torn-down cache (R145) -/

theorem Cache.load_of_dead {c : Cache} (h : c.live = false) (a : Word) : c.load a = (.miss, c) := by
  simp [Cache.load, h]

theorem Cache.store_of_dead {c : Cache} (h : c.live = false) (a : Word) : c.store a = (.miss, c) := by
  simp [Cache.store, h]

theorem Cache.invalidateBlock_of_dead {c : Cache} (h : c.live = false) (row way : Nat) :
    c.invalidateBlock row way = c := by
  simp [Cache.invalidateBlock, h]

theorem Cache.invalidateAll_of_dead {c : Cache} (h : c.live = false) : c.invalidateAll = c := by
  simp [Cache.invalidateAll, h]

theorem Cache.isBlockValid_of_dead {c : Cache} (h : c.live = false) (row way : Nat) :
    c.isBlockValid row way = false := by
  simp [Cache.isBlockValid, h]

theorem Cache.getAddr_of_dead {c : Cache} (h : c.live = false) (row way : Nat) : c.getAddr row way = 0#32 :=
  Cache.getAddr_of_not_valid (by simp [Cache.isBlockValid_of_dead h])

theorem Cache.validateInjection_of_dead {c : Cache} (h : c.live = false) (row way word : Nat) :
    c.validateInjection row way word = .invalidCache := by
  rw [Cache.validateInjection_eq, if_pos h]

theorem Cache.teardown_of_dead {c : Cache} (h : c.live = false) : c.teardown = c := by
  rw [Cache.teardown, ← h]

/-- Settles O32: after `teardown` each operation finds its cache dead. -/
theorem teardownCommandSilencesTheCache : Obligations.TeardownCommandSilencesTheCache := by
  intro c s b hb t
  have ht : t.block = some (b.withCache c (b.cache c).teardown) := rfl
  have hdead : ((b.withCache c (b.cache c).teardown).cache c).live = false := by
    rw [Block.cache_withCache_self, Cache.teardown_live]
  refine ⟨exec_teardown hb c, fun a => ?load, fun a => ?store, fun row way => ?invalidateBlock, ?invalidateAll,
    fun row way => ?getAddr, fun row way => ?isBlockValid, fun row way word => ?validateInjection, ?teardown⟩
  case load => rw [exec_load ht (Cache.load_of_dead hdead a), Block.withCache_cache, ← ht]
  case store => rw [exec_store ht (Cache.store_of_dead hdead a), Block.withCache_cache, ← ht]
  case invalidateBlock =>
    rw [exec_invalidateBlock ht (Cache.invalidateBlock_of_dead hdead row way), State.withBlock_withCache_same ht]
  case invalidateAll =>
    rw [exec_invalidateAll ht (Cache.invalidateAll_of_dead hdead), State.withBlock_withCache_same ht]
  case getAddr => rw [exec_getAddr ht, Cache.getAddr_of_dead hdead]
  case isBlockValid => rw [exec_isBlockValid ht, Cache.isBlockValid_of_dead hdead]
  case validateInjection => rw [exec_validateInjection ht, Cache.validateInjection_of_dead hdead]
  case teardown => rw [exec_teardown ht, Cache.teardown_of_dead hdead, State.withBlock_withCache_same ht]

/-! ### Construction (R130) -/

theorem ReplState.initial_eq (p : ReplPolicy) (seed : Word) :
    ReplState.initial p seed = if p = .roundRobin then .roundRobin [] else .random seed := by
  cases p <;> rfl

/-- Settles O23: `init` succeeds exactly on a good configuration, by `configValid_iff`. -/
theorem initCommandBuildsAFreshCache : Obligations.InitCommandBuildsAFreshCache := by
  intro c cfg s b hb fresh
  have hexec : exec (.init c cfg) s = _ := State.onBlock_some s b _ hb
  rw [hexec]
  constructor
  · intro hgood
    have hinit : Cache.init cfg (seedOf b.seeds c) = some fresh := by
      rw [Cache.init, if_pos ((configValid_iff cfg).2 hgood), ReplState.initial_eq]
      rfl
    simp only [hinit, List.append_nil]
  · intro hbad
    simp only [(Cache.init_eq_none cfg (seedOf b.seeds c)).2 hbad]
    rw [← hb]

/-! ### Invalidation (R139, R140) -/

/-- One entry written, read back entry by entry. -/
theorem Cache.entry_withEntry {c : Cache} (hwf : Memory.wf .unlisted c.entries = true) {row way r w : Nat} (e : Entry)
    (hway : way < c.assoc) (hw : w < c.assoc) :
    (c.withEntry row way e).entry r w = if r = row ∧ w = way then e else c.entry r w := by
  split_ifs with hslot
  · obtain ⟨rfl, rfl⟩ := hslot
    exact c.entry_withEntry_self hwf r w e
  · exact c.entry_withEntry_ne e hway hw hslot

theorem Cache.invalidateBlock_of_not_inRange {c : Cache} {row way : Nat}
    (h : ¬(c.live = true ∧ row < c.rows ∧ way < c.assoc)) : c.invalidateBlock row way = c := by
  rcases c.invalidateBlock_cases row way with ⟨hlive, hrow, hway, -⟩ | ⟨-, e⟩
  · exact absurd ⟨hlive, hrow, hway⟩ h
  · exact e

theorem Cache.invalidateBlock_of_inRange {c : Cache} {row way : Nat} (hlive : c.live = true) (hrow : row < c.rows)
    (hway : way < c.assoc) : c.invalidateBlock row way = c.clearValid row way := by
  simp [Cache.invalidateBlock, Cache.inRange, hlive, hrow, hway]

/-- Settles O26: in range one entry is written, and out of range the operation leaves its cache as it is. -/
theorem invalidateBlockCommandEffect : Obligations.InvalidateBlockCommandEffect := by
  intro c row way s b hb hwf k
  constructor
  · intro hout
    rw [exec_invalidateBlock hb (Cache.invalidateBlock_of_not_inRange hout), State.withBlock_withCache_same hb]
  · intro hlive hrow hway
    exact ⟨k.clearValid row way, exec_invalidateBlock hb (Cache.invalidateBlock_of_inRange hlive hrow hway), rfl,
      fun _ _ hw => Cache.entry_withEntry hwf _ hway hw⟩

theorem Cache.invalidateAll_of_live {c : Cache} (h : c.live = true) : c.invalidateAll = c.clearAllValid := by
  simp [Cache.invalidateAll, h]

/-- Every valid bit cleared twice is every valid bit cleared once (R140): canonical arrays that read alike are equal. -/
theorem Cache.clearAllValid_clearAllValid {c : Cache} (hwf : Memory.wf .unlisted c.entries = true) :
    c.clearAllValid.clearAllValid = c.clearAllValid := by
  have hwf' : Memory.wf .unlisted c.clearAllValid.entries = true := Memory.wf_map _ _ hwf
  have hentries : c.clearAllValid.clearAllValid.entries = c.clearAllValid.entries := by
    refine Memory.ext_read _ _ (Memory.wf_map _ _ hwf') hwf' fun a => ?_
    rw [Cache.clearAllValid_entries, Memory.read_map _ rfl _ hwf', Cache.clearAllValid_entries,
      Memory.read_map _ rfl _ hwf]
  calc c.clearAllValid.clearAllValid
      = { c.clearAllValid with entries := c.clearAllValid.clearAllValid.entries } := rfl
    _ = c.clearAllValid := by rw [hentries]

/-- Settles O27: a live cache has every valid bit cleared, and the second call finds none to clear. -/
theorem invalidateAllCommandEffect : Obligations.InvalidateAllCommandEffect := by
  intro c s b hb hwf k
  constructor
  · intro hdead
    rw [exec_invalidateAll hb (Cache.invalidateAll_of_dead hdead), State.withBlock_withCache_same hb]
  · intro hlive
    refine ⟨_, k.clearAllValid, exec_invalidateAll hb (Cache.invalidateAll_of_live hlive), rfl, rfl,
      k.entry_clearAllValid hwf, ?again⟩
    case again =>
      have hsame : ((b.withCache c k.clearAllValid).cache c).invalidateAll = (b.withCache c k.clearAllValid).cache c := by
        rw [Block.cache_withCache_self, Cache.invalidateAll_of_live (c := k.clearAllValid) hlive,
          Cache.clearAllValid_clearAllValid hwf]
      rw [exec_invalidateAll rfl hsame, State.withBlock_withCache_same rfl]

end Sys2Proof.Machine

/-! ### Resident lines (40_cache_engine.md R132) and the accesses that find one or none (R137, R138) -/

namespace Sys2Proof.Machine

/-- Some way of the row holds the line validly (R132). -/
def Cache.Resident (c : Cache) (row : Nat) (tag : Word) : Prop :=
  ∃ w < c.assoc, c.entry row w = { tag := tag, valid := true }

theorem Entry.eq_valid_iff (e : Entry) (tag : Word) :
    e = { tag := tag, valid := true } ↔ e.valid = true ∧ e.tag = tag := by
  cases e
  simp [and_comm]

/-- The lookup finds a way exactly if the line is resident (R132). -/
theorem Cache.lookup_isSome_iff (c : Cache) (row : Nat) (tag : Word) :
    (c.lookup row tag).isSome = true ↔ c.Resident row tag := by
  simp only [Cache.lookup_isSome, Cache.Resident, Entry.eq_valid_iff]

theorem Cache.lookup_isSome_eq_false (c : Cache) (row : Nat) (tag : Word) :
    (c.lookup row tag).isSome = false ↔ ¬c.Resident row tag := by
  rw [← Cache.lookup_isSome_iff, Bool.not_eq_true]

theorem Cache.load_of_resident {c : Cache} {a : Word} (hlive : c.live = true)
    (h : c.Resident (c.rowOf a) (c.tagOf a)) :
    c.load a = (.hit, { c with counters := { c.counters with loadHits := c.counters.loadHits + 1 } }) := by
  simp [Cache.load, hlive, (c.lookup_isSome_iff _ _).2 h]

theorem Cache.load_of_not_resident {c : Cache} {a : Word} (hlive : c.live = true)
    (h : ¬c.Resident (c.rowOf a) (c.tagOf a)) :
    c.load a = (.miss, Cache.fill { c with counters := { c.counters with loadMisses := c.counters.loadMisses + 1 } }
      (c.rowOf a) (c.tagOf a)) := by
  simp [Cache.load, hlive, (c.lookup_isSome_eq_false _ _).2 h]

theorem Cache.store_of_resident {c : Cache} {a : Word} (hlive : c.live = true)
    (h : c.Resident (c.rowOf a) (c.tagOf a)) :
    c.store a = (.hit, { c with counters := { c.counters with storeHits := c.counters.storeHits + 1 } }) := by
  simp [Cache.store, hlive, (c.lookup_isSome_iff _ _).2 h]

theorem Cache.store_of_not_resident {c : Cache} {a : Word} (hlive : c.live = true)
    (h : ¬c.Resident (c.rowOf a) (c.tagOf a)) (halloc : c.alloc = .writeAllocate) :
    c.store a = (.miss, Cache.fill { c with counters := { c.counters with storeMisses := c.counters.storeMisses + 1 } }
      (c.rowOf a) (c.tagOf a)) := by
  simp [Cache.store, hlive, (c.lookup_isSome_eq_false _ _).2 h, halloc]

theorem Cache.store_of_not_allocating {c : Cache} {a : Word} (hlive : c.live = true)
    (h : ¬c.Resident (c.rowOf a) (c.tagOf a)) (halloc : c.alloc = .noWriteAllocate) :
    c.store a
      = (.miss, { c with counters := { c.counters with storeMisses := c.counters.storeMisses + 1 } }) := by
  simp [Cache.store, hlive, (c.lookup_isSome_eq_false _ _).2 h, halloc]

/-! ### The fill (R134), its way and its victim -/

/-- What a fill needs of the cache: the invariants of R22, R23 and R26 without the count of R27, which holds again only
after the fill. -/
structure Cache.Fillable (c : Cache) : Prop where
  assoc_pos : 0 < c.assoc
  entries_wf : Memory.wf .unlisted c.entries = true
  repl_sound : c.repl.Sound c.rows c.assoc

/-- A sound cache can be filled, whatever its counters. -/
theorem Cache.Sound.fillable {c : Cache} (h : c.Sound) (n : Counters) : Cache.Fillable { c with counters := n } :=
  ⟨h.assoc_pos, h.entries_wf, h.repl_sound⟩

theorem Cache.Fillable.targetWay_lt {c : Cache} (h : c.Fillable) (row : Nat) : c.targetWay row < c.assoc :=
  Cache.targetWay_lt c row h.assoc_pos h.repl_sound

/-- A fill writes one entry (R134). -/
theorem Cache.Fillable.entry_fill {c : Cache} (h : c.Fillable) (row : Nat) (tag : Word) {r w : Nat}
    (hw : w < c.assoc) :
    (c.fill row tag).entry r w
      = if r = row ∧ w = c.targetWay row then { tag := tag, valid := true } else c.entry r w := by
  rw [Cache.fill_eq]
  exact Cache.entry_withEntry h.entries_wf _ (h.targetWay_lt row) hw

theorem Cache.targetWay_of_free {c : Cache} {row way : Nat} (h : c.freeWay row = some way) :
    c.targetWay row = way := by
  rw [Cache.targetWay, h, Option.getD_some]

theorem Cache.targetWay_of_full {c : Cache} {row : Nat} (h : c.freeWay row = none) :
    c.targetWay row = c.victimWay row := by
  rw [Cache.targetWay, h, Option.getD_none]

/-- A fill of a way that was not valid leaves the replacement state alone (R133). -/
theorem Cache.fill_repl_of_free {c : Cache} {row way : Nat} (h : c.freeWay row = some way) (tag : Word) :
    (c.fill row tag).repl = c.repl := by
  rw [Cache.fill, h]
  rfl

/-- A fill of a way that was not valid is a compulsory miss (R134). -/
theorem Cache.fill_counters_of_free {c : Cache} {row way : Nat} (h : c.freeWay row = some way) (tag : Word) :
    (c.fill row tag).counters
      = { c.counters with compulsoryMisses := c.counters.compulsoryMisses + 1 } := by
  have hinvalid := (c.freeWay_some.1 h).2.1
  simp [Cache.fill, h, hinvalid]

/-- A fill of a full row moves the replacement state by one victim selection (R134 to R136). -/
theorem Cache.fill_repl_of_full {c : Cache} {row : Nat} (h : c.freeWay row = none) (tag : Word) :
    (c.fill row tag).repl = c.victimRepl row := by
  rw [Cache.fill, h]
  rfl

/-- A fill of a full row is an eviction (R134): the victim is one of the row's ways, all of which are valid. -/
theorem Cache.Fillable.fill_counters_of_full {c : Cache} (hc : c.Fillable) {row : Nat} (h : c.freeWay row = none)
    (tag : Word) : (c.fill row tag).counters = { c.counters with evictions := c.counters.evictions + 1 } := by
  have hvalid : (c.entry row (c.targetWay row)).valid = true := c.freeWay_none.1 h _ (hc.targetWay_lt row)
  rw [Cache.fill_eq]
  simp [hvalid]

theorem Cache.fill_config (c : Cache) (row : Nat) (tag : Word) :
    c.fill row tag = { c with
      entries := (c.fill row tag).entries
      repl := (c.fill row tag).repl
      counters := (c.fill row tag).counters } := by
  rw [Cache.fill_eq]

/-- A selection multiplies the seed by 48271, modulo 2^32 (R136). -/
theorem nextSeed_eq (seed : Word) : nextSeed seed = BitVec.ofNat 32 (seed.toNat * 48271) := by
  apply BitVec.eq_of_toNat_eq
  simp [nextSeed, Config.lcgMultiplier, BitVec.toNat_mul]

theorem Cache.victimRepl_of_random {c : Cache} {seed : Word} (h : c.repl = .random seed) (row : Nat) :
    c.victimRepl row = .random (nextSeed seed) := by
  rw [Cache.victimRepl, h]

theorem Cache.victimWay_of_random {c : Cache} {seed : Word} (h : c.repl = .random seed) (row : Nat) :
    c.victimWay row = (nextSeed seed).toNat % c.assoc := by
  rw [Cache.victimWay, h]

theorem Cache.victimRepl_of_roundRobin {c : Cache} {cursors : Memory Nat} (h : c.repl = .roundRobin cursors)
    (row : Nat) :
    c.victimRepl row
      = .roundRobin (Memory.write 0 cursors row ((Memory.read 0 cursors row + 1) % c.assoc)) := by
  rw [Cache.victimRepl, h]

theorem Cache.victimWay_of_roundRobin {c : Cache} {cursors : Memory Nat} (h : c.repl = .roundRobin cursors)
    (row : Nat) : c.victimWay row = Memory.read 0 cursors row := by
  rw [Cache.victimWay, h]

theorem Cache.Fillable.cursors_wf {c : Cache} (h : c.Fillable) {cursors : Memory Nat}
    (hrepl : c.repl = .roundRobin cursors) : Memory.wf 0 cursors = true := by
  have hsound := h.repl_sound
  rw [hrepl] at hsound
  exact hsound.1

/-- One cursor written, read back row by row (R135). -/
theorem Memory.read_write {α : Type} [DecidableEq α] {d : α} {m : Memory α} (hm : Memory.wf d m = true) (a : Nat)
    (v : α) (x : Nat) : Memory.read d (Memory.write d m a v) x = if x = a then v else Memory.read d m x := by
  split_ifs with hx
  · rw [hx, Memory.read_write_self m hm]
  · exact Memory.read_write_ne m a x v hx

/-- A fill is what the statements call one (R134 to R136). -/
theorem Cache.Fillable.filled {c : Cache} (h : c.Fillable) (row : Nat) (tag : Word) :
    c.Filled c.counters row tag (c.fill row tag) := by
  refine ⟨c.targetWay row, h.targetWay_lt row, c.fill_config row tag, fun r w _ hw => h.entry_fill row tag hw, ?way⟩
  case way =>
    cases hfree : c.freeWay row with
    | some way =>
      obtain ⟨-, hinvalid, hbelow⟩ := c.freeWay_some.1 hfree
      rw [Cache.targetWay_of_free hfree]
      exact .inl ⟨hinvalid, hbelow, Cache.fill_repl_of_free hfree tag, Cache.fill_counters_of_free hfree tag⟩
    | none =>
      refine .inr ⟨c.freeWay_none.1 hfree, h.fill_counters_of_full hfree tag, ?victim⟩
      case victim =>
        rw [Cache.targetWay_of_full hfree, Cache.fill_repl_of_full hfree]
        cases hrepl : c.repl with
        | roundRobin cursors =>
          rw [Cache.victimWay_of_roundRobin hrepl, Cache.victimRepl_of_roundRobin hrepl]
          exact ⟨rfl, _, rfl, Memory.read_write (h.cursors_wf hrepl) row _⟩
        | random seed =>
          rw [Cache.victimWay_of_random hrepl, Cache.victimRepl_of_random hrepl, nextSeed_eq, BitVec.toNat_ofNat]
          exact ⟨rfl, rfl⟩

theorem Cache.Sound.fill_filled {c : Cache} (h : c.Sound) (n : Counters) (row : Nat) (tag : Word) :
    c.Filled n row tag (Cache.fill { c with counters := n } row tag) :=
  (h.fillable n).filled row tag

/-! ### The commands `load` and `store` (R137, R138) -/

/-- The row of an address as the statements write it (R131). -/
theorem Cache.rowOf_eq (c : Cache) (a : Word) : c.rowOf a = a.toNat / 2 ^ c.blockOffsetBits % c.rows := by
  rw [Cache.rowOf, Nat.shiftRight_eq_div_pow, Cache.rowShift]

/-- Settles O24: the three cases of a load, with the fill of `Fillable.filled` in the third. -/
theorem loadCommandEffect : Obligations.LoadCommandEffect := by
  intro c addr s b hb hsound k n row tag resident
  have hrow : k.rowOf addr = row := k.rowOf_eq addr
  have hresident : resident ↔ k.Resident (k.rowOf addr) (k.tagOf addr) := by
    rw [hrow]
    rfl
  refine ⟨fun hdead => ?dead, fun hlive hres => ?hit, fun hlive hres => ?miss⟩
  case dead => rw [exec_load hb (Cache.load_of_dead hdead addr), Block.withCache_cache, ← hb]
  case hit => exact exec_load hb (Cache.load_of_resident hlive (hresident.1 hres))
  case miss =>
    rw [hresident] at hres
    rw [← hrow]
    exact ⟨_, exec_load hb (Cache.load_of_not_resident hlive hres), hsound.fill_filled _ (k.rowOf addr) tag⟩

/-- Settles O25: the four cases of a store, with the fill of `Fillable.filled` in the fourth. -/
theorem storeCommandEffect : Obligations.StoreCommandEffect := by
  intro c addr s b hb hsound k n row tag resident
  have hrow : k.rowOf addr = row := k.rowOf_eq addr
  have hresident : resident ↔ k.Resident (k.rowOf addr) (k.tagOf addr) := by
    rw [hrow]
    rfl
  refine ⟨fun hdead => ?dead, fun hlive hres => ?hit, fun hlive hres halloc => ?noAllocate,
    fun hlive hres halloc => ?allocate⟩
  case dead => rw [exec_store hb (Cache.store_of_dead hdead addr), Block.withCache_cache, ← hb]
  case hit => exact exec_store hb (Cache.store_of_resident hlive (hresident.1 hres))
  case noAllocate => exact exec_store hb (Cache.store_of_not_allocating hlive (hresident.not.1 hres) halloc)
  case allocate =>
    rw [hresident] at hres
    rw [← hrow]
    exact ⟨_, exec_store hb (Cache.store_of_not_resident hlive hres halloc), hsound.fill_filled _ (k.rowOf addr) tag⟩

end Sys2Proof.Machine

/-! ### Replacement state moves with an eviction and never else (40_cache_engine.md R133, R134) -/

namespace Sys2Proof.Machine

/-- `c'` has the replacement state and the evictions of `c`. -/
def Cache.KeepsVictims (c c' : Cache) : Prop := c'.repl = c.repl ∧ c'.counters.evictions = c.counters.evictions

/-- From `c` to `c'` no victim was selected and no eviction counted, or one of each. -/
def Cache.CountsVictims (c c' : Cache) : Prop :=
  c.KeepsVictims c' ∨ ∃ row, c'.repl = c.victimRepl row ∧ c'.counters.evictions = c.counters.evictions + 1

theorem Cache.KeepsVictims.refl (c : Cache) : c.KeepsVictims c := ⟨rfl, rfl⟩

theorem Cache.KeepsVictims.counts {c c' : Cache} (h : c.KeepsVictims c') : c.CountsVictims c' := .inl h

theorem Cache.CountsVictims.refl (c : Cache) : c.CountsVictims c := (KeepsVictims.refl c).counts

/-- What keeps the victims can follow what counts them. -/
theorem Cache.CountsVictims.keep {c c' c'' : Cache} (h : c.CountsVictims c') (h' : c'.KeepsVictims c'') :
    c.CountsVictims c'' := by
  obtain ⟨hrepl', hev'⟩ := h'
  unfold Cache.CountsVictims Cache.KeepsVictims
  rwa [hrepl', hev']

theorem Cache.Fillable.countsVictims_fill {c : Cache} (h : c.Fillable) (row : Nat) (tag : Word) :
    c.CountsVictims (c.fill row tag) := by
  cases hfree : c.freeWay row with
  | some way =>
    exact .inl ⟨Cache.fill_repl_of_free hfree tag, by rw [Cache.fill_counters_of_free hfree]⟩
  | none =>
    exact .inr ⟨row, Cache.fill_repl_of_full hfree tag, by rw [h.fill_counters_of_full hfree]⟩

/-- The fill of a miss that `n` has counted. -/
theorem Cache.Sound.countsVictims_fill {c : Cache} (h : c.Sound) {n : Counters} (row : Nat) (tag : Word)
    (hn : n.evictions = c.counters.evictions) :
    c.CountsVictims (Cache.fill { c with counters := n } row tag) := by
  have hfill := (h.fillable n).countsVictims_fill row tag
  simp only [Cache.CountsVictims, Cache.KeepsVictims, hn] at hfill
  exact hfill

theorem Cache.Sound.countsVictims_load {c : Cache} (h : c.Sound) (a : Word) : c.CountsVictims (c.load a).2 := by
  rcases c.load_cases a with ⟨-, e⟩ | ⟨-, -, e⟩ | ⟨-, -, e⟩ <;> rw [e]
  · exact .refl c
  · exact .refl c
  · exact h.countsVictims_fill _ _ (by rfl)

theorem Cache.Sound.countsVictims_store {c : Cache} (h : c.Sound) (a : Word) : c.CountsVictims (c.store a).2 := by
  rcases c.store_cases a with ⟨-, e⟩ | ⟨-, -, e⟩ | ⟨-, -, -, e⟩ | ⟨-, -, -, e⟩ <;> rw [e]
  · exact .refl c
  · exact .refl c
  · exact .refl c
  · exact h.countsVictims_fill _ _ (by rfl)

theorem Cache.keepsVictims_invalidateBlock (c : Cache) (row way : Nat) :
    c.KeepsVictims (c.invalidateBlock row way) := by
  rcases c.invalidateBlock_cases row way with ⟨-, -, -, e⟩ | ⟨-, e⟩ <;> rw [e]
  · exact ⟨rfl, rfl⟩
  · exact .refl c

theorem Cache.keepsVictims_invalidateAll (c : Cache) : c.KeepsVictims c.invalidateAll := by
  rcases c.invalidateAll_cases with ⟨-, e⟩ | ⟨-, e⟩ <;> rw [e]
  · exact ⟨rfl, rfl⟩
  · exact .refl c

theorem Cache.keepsVictims_teardown (c : Cache) : c.KeepsVictims c.teardown := ⟨rfl, rfl⟩

/-- Classifying and fetching does one load to a cache, or nothing (R301, R302). -/
theorem Block.Sound.countsVictims_fetch {b : Block} (h : b.Sound) (r : Classification) (v : Word) (c : CacheId) :
    (b.cache c).CountsVictims ((Block.fetch { b with cur := r } v).1.cache c) := by
  have hfetch := Block.fetch_cache { b with cur := r } v c
  rw [Block.cache_withCur] at hfetch
  rcases hfetch with e | e <;> rw [e]
  · exact .refl _
  · exact (h.cache c).countsVictims_load v

/-- The cache-control part invalidates, and no more (R303, R304). -/
theorem Block.keepsVictims_cacheControl (b : Block) (g : Vector Word 16) (c : CacheId) :
    (b.cache c).KeepsVictims ((b.cacheControl g).cache c) := by
  rcases b.cacheControl_block g with ⟨-, row, way, e⟩ | ⟨-, e⟩ | e <;> rw [e]
  · exact Block.withCache_cache_rel .refl (Cache.keepsVictims_invalidateBlock b.dcache row way) c
  · exact Block.withCache_cache_rel .refl (Cache.keepsVictims_invalidateAll b.icache) c
  · exact .refl _

/-- No instruction but those that create a cache makes the replacement state of a cache and its evictions part. -/
theorem Block.Becomes.countsVictims {i : Instr} {b b' : Block} (h : b.Becomes i b') (hb : b.Sound) (c : CacheId) :
    (b.cache c).CountsVictims (b'.cache c) := by
  cases h with
  | runWord r v g => exact (hb.countsVictims_fetch r v c).keep (Block.keepsVictims_cacheControl _ g c)
  | wrongSize cond v => exact hb.countsVictims_fetch (.notMem cond) v c
  | memAccess v dir =>
    rcases b.memAccess_cache v dir c with e | e | e <;> rw [e]
    · exact .refl _
    · exact (hb.cache c).countsVictims_load v
    · exact (hb.cache c).countsVictims_store v
  | loadPlan n name row way word =>
    obtain ⟨plan, e⟩ := b.loadPlan_block n name row way word
    rw [e]
    cases c <;> exact .refl _
  | teardown => cases c <;> exact (Cache.keepsVictims_teardown _).counts
  | cacheLoad c' a => exact Block.withCache_cache_rel .refl ((hb.cache c').countsVictims_load a) c
  | cacheStore c' a => exact Block.withCache_cache_rel .refl ((hb.cache c').countsVictims_store a) c
  | cacheInvalidateBlock c' row way =>
    exact Block.withCache_cache_rel .refl (Cache.keepsVictims_invalidateBlock _ row way).counts c
  | cacheInvalidateAll c' => exact Block.withCache_cache_rel .refl (Cache.keepsVictims_invalidateAll _).counts c
  | cacheTeardown c' => exact Block.withCache_cache_rel .refl (Cache.keepsVictims_teardown _).counts c
  | probe => exact .refl _

/-- Settles O39: a resident line makes the access a hit; an instruction that counts no eviction selects no victim. -/
theorem hitsWriteOneCounter : Obligations.HitsWriteOneCounter := by
  constructor
  · intro k a hlive hresident
    exact ⟨Cache.load_of_resident hlive hresident, Cache.store_of_resident hlive hresident⟩
  · intro i s t b b' c hb hsound h hb' hi hev
    obtain ⟨b'', hb'', hbecomes⟩ := exec_becomes hb h hi
    obtain rfl : b'' = b' := Option.some.inj (hb''.symm.trans hb')
    rcases hbecomes.countsVictims hsound c with ⟨hrepl, -⟩ | ⟨row, -, hevicted⟩
    · exact hrepl
    · omega

/-! ### The seed of a RANDOM cache (R136, R146, R390) -/

/-- One more selection multiplies the seed once more (R136). -/
theorem nextSeed_lcgSeed (seed0 : Word) (n : Nat) : nextSeed (lcgSeed seed0 n) = lcgSeed seed0 (n + 1) := by
  apply BitVec.eq_of_toNat_eq
  simp only [nextSeed_eq, lcgSeed, BitVec.toNat_ofNat, Nat.mod_mul_mod, pow_succ, Nat.mul_assoc]

/-- A RANDOM cache's seed is `seed0` after as many selections as the cache has counted evictions. -/
def Cache.SeedLaw (c : Cache) (seed0 : Word) : Prop :=
  ∀ seed, c.repl = .random seed → seed = lcgSeed seed0 c.counters.evictions

/-- The block's law is that of each cache with its own `SEED0`. -/
theorem Block.seedLaw_iff (b : Block) : b.SeedLaw ↔ ∀ c, (b.cache c).SeedLaw (seedOf b.seeds c) := Iff.rfl

/-- A selection and the eviction it counts keep the law together. -/
theorem Cache.CountsVictims.seedLaw {c c' : Cache} (h : c.CountsVictims c') {seed0 : Word} (hlaw : c.SeedLaw seed0) :
    c'.SeedLaw seed0 := by
  intro seed' hseed'
  rcases h with ⟨hrepl, hev⟩ | ⟨row, hrepl, hev⟩ <;> rw [hev]
  · exact hlaw seed' (hrepl.symm.trans hseed')
  · rw [hrepl] at hseed'
    cases hc : c.repl with
    | roundRobin cursors =>
      rw [Cache.victimRepl_of_roundRobin hc] at hseed'
      cases hseed'
    | random seed =>
      rw [Cache.victimRepl_of_random hc] at hseed'
      cases hseed'
      rw [hlaw seed hc, nextSeed_lcgSeed]

/-- A fresh cache has the seed it was given and no eviction (R50, R130). -/
theorem Cache.init_seedLaw {cfg : CacheConfig} {seed0 : Word} {c : Cache} (h : Cache.init cfg seed0 = some c) :
    c.SeedLaw seed0 := by
  intro seed hseed
  unfold Cache.init at h
  split at h
  · cases h
    cases hp : cfg.repl with
    | roundRobin =>
      simp [hp, ReplState.initial] at hseed
    | random =>
      simp only [hp, ReplState.initial, ReplState.random.injEq] at hseed
      rw [← hseed]
      exact (lcgSeed_zero seed0).symm
  · cases h

theorem Block.SeedLaw.withCache {b : Block} (h : b.SeedLaw) {c : CacheId} {v : Cache}
    (hv : v.SeedLaw (seedOf b.seeds c)) : (b.withCache c v).SeedLaw := by
  intro c'
  rw [Block.withCache_seeds]
  by_cases hc : c' = c
  · subst hc
    rw [Block.cache_withCache_self]
    exact hv
  · rw [Block.cache_withCache_ne b c c' v hc]
    exact h c'

theorem Block.init_seedLaw {cfg : BlockConfig} {b : Block} (h : Block.init cfg = some b) : b.SeedLaw := by
  obtain ⟨i, d, l, hi, hd, hl, rfl⟩ := Block.init_eq_some h
  rw [Block.seedLaw_iff]
  intro c
  cases c with
  | icache => exact Cache.init_seedLaw hi
  | dcache => exact Cache.init_seedLaw hd
  | l2 => exact Cache.init_seedLaw hl

/-- Every effect of an instruction that creates no cache keeps the seed law: `SEED0` stays, and seed and evictions move
together. -/
theorem Block.Becomes.seedLaw {i : Instr} {b b' : Block} (h : b.Becomes i b') (hb : b.Sound) (hlaw : b.SeedLaw) :
    b'.SeedLaw := by
  intro c
  rw [h.advances.seeds]
  exact (h.countsVictims hb c).seedLaw (hlaw c)

/-- What every effect on a block keeps, a fresh cache keeps and `BlockInit` gives, every instruction keeps. -/
theorem exec_keeps {P : Block → Prop} (hbecomes : ∀ {i b b'}, P b → Block.Becomes i b b' → P b')
    (hcache : ∀ {b c cfg k}, P b → Cache.init cfg (seedOf b.seeds c) = some k → P (b.withCache c k))
    (hblock : ∀ {cfg b}, Block.init cfg = some b → P b) {i : Instr} {s t : State}
    (hs : ∀ b, s.block = some b → P b) (h : exec i s = .next t) : ∀ b, t.block = some b → P b := by
  intro b' hb'
  by_cases hinit : ∃ cfg, i = .blockInit cfg
  · obtain ⟨cfg, rfl⟩ := hinit
    rw [exec, execBlockInit] at h
    split at h <;> cases h
    · rename_i hnew
      cases hb'
      exact hblock hnew
    · cases hb'
  obtain ⟨b, hb⟩ := exec_next_block (fun cfg hi => hinit ⟨cfg, hi⟩) h
  have hP := hs b hb
  cases hi : createsCache i with
  | true =>
    obtain ⟨c, cfg, rfl⟩ := ((createsCache_iff i).1 hi).resolve_right hinit
    rw [exec, execInit, State.onBlock_some s b _ hb] at h
    cases h
    cases hb'
    split
    · rename_i k hk
      exact hcache hP hk
    · exact hP
  | false =>
    obtain ⟨b'', hb'', heffect⟩ := exec_becomes hb h hi
    obtain rfl : b'' = b' := Option.some.inj (hb''.symm.trans hb')
    exact hbecomes hP heffect

/-- What every instruction keeps of the block, every step keeps: an empty queue and a reserved code do nothing to it. -/
theorem step_keeps {P : Block → Prop}
    (hexec : ∀ {i s t}, (∀ b, s.block = some b → P b) → exec i s = .next t → ∀ b, t.block = some b → P b)
    {s t : State} (hs : ∀ b, s.block = some b → P b) (h : step s = .next t) : ∀ b, t.block = some b → P b := by
  rcases step_cases h with ⟨-, rfl⟩ | ⟨q, rest, -, -, rfl⟩ | ⟨q, rest, i, -, -, hi⟩
  · exact hs
  · exact hs
  · exact hexec (by rwa [State.accept_block]) hi

/-- A sound block that obeys the seed law: what the law needs to be kept. -/
def Block.SoundWithSeedLaw (b : Block) : Prop := b.Sound ∧ b.SeedLaw

theorem exec_keeps_soundWithSeedLaw {i : Instr} {s t : State} (hs : ∀ b, s.block = some b → b.SoundWithSeedLaw)
    (h : exec i s = .next t) : ∀ b, t.block = some b → b.SoundWithSeedLaw := by
  refine exec_keeps ?becomes ?cache ?block hs h
  case becomes =>
    rintro i b b' ⟨hsound, hlaw⟩ hbecomes
    exact ⟨hbecomes.sound hsound, hbecomes.seedLaw hsound hlaw⟩
  case cache =>
    rintro b c cfg k ⟨hsound, hlaw⟩ hk
    exact ⟨hsound.withCache c (Cache.init_sound hk), hlaw.withCache (Cache.init_seedLaw hk)⟩
  case block =>
    intro cfg b hb
    exact ⟨Block.init_sound hb, Block.init_seedLaw hb⟩

/-- Settles O52: every effect moves seed and evictions together, and a fresh cache starts from its `SEED0`. -/
theorem stepKeepsTheSeedLaw : Obligations.StepKeepsTheSeedLaw := by
  intro s t hsound hlaw h b hb
  exact (step_keeps exec_keeps_soundWithSeedLaw (fun b hb => ⟨hsound b hb, hlaw b hb⟩) h b hb).2

/-- The multiplier is -1 modulo 16: an odd power of it is 15, an even one 1. -/
theorem lcgMultiplier_pow_modEq (n : Nat) : 48271 ^ n ≡ if n % 2 = 0 then 1 else 15 [MOD 16] := by
  induction n with
  | zero => rfl
  | succ n ih =>
    rw [pow_succ]
    refine (ih.mul_right 48271).trans ?_
    rcases Nat.mod_two_eq_zero_or_one n with hn | hn
    · rw [if_pos hn, if_neg (by omega)]
      decide
    · rw [if_neg (by omega), if_pos (by omega)]
      decide

/-- Modulo a divisor of 16 the seed after `n` selections is `SEED0` or its negation, in turn (R146). -/
theorem lcgSeed_toNat_mod (seed0 : Word) (n : Nat) {m : Nat} (hm : m ∣ 16) :
    (lcgSeed seed0 n).toNat % m
      = if n % 2 = 0 then seed0.toNat % m else (m - seed0.toNat % m) % m := by
  have hpow : seed0.toNat * 48271 ^ n ≡ seed0.toNat * (if n % 2 = 0 then 1 else 15) [MOD m] :=
    ((lcgMultiplier_pow_modEq n).of_dvd hm).mul_left _
  have hword : (lcgSeed seed0 n).toNat % m = seed0.toNat * (if n % 2 = 0 then 1 else 15) % m := by
    rw [lcgSeed, BitVec.toNat_ofNat, Nat.mod_mod_of_dvd _ (hm.trans (by norm_num))]
    exact hpow
  rw [hword]
  split_ifs
  · rw [Nat.mul_one]
  · have hpos : 0 < m := Nat.pos_of_dvd_of_pos hm (by norm_num)
    have hle : seed0.toNat % m ≤ m := (Nat.mod_lt _ hpos).le
    have hsum : seed0.toNat * 15 + seed0.toNat ≡ m - seed0.toNat % m + seed0.toNat % m [MOD m] := by
      rw [Nat.sub_add_cancel hle]
      calc seed0.toNat * 15 + seed0.toNat = 16 * seed0.toNat := by ring
        _ ≡ 0 [MOD m] := (Nat.modEq_zero_iff_dvd).2 (hm.mul_right _)
        _ ≡ m [MOD m] := (Nat.modEq_zero_iff_dvd.2 dvd_rfl).symm
    exact Nat.ModEq.add_right_cancel (Nat.mod_modEq seed0.toNat m).symm hsum

/-- Settles O38: the victim is the next seed modulo `assoc`, and 48271 is -1 modulo 16. -/
theorem randomVictimsAlternate : Obligations.RandomVictimsAlternate := by
  intro k row n seed0 hrepl hassoc
  rw [Cache.victimRepl_of_random hrepl, Cache.victimWay_of_random hrepl, nextSeed_lcgSeed]
  exact ⟨rfl, lcgSeed_toNat_mod seed0 (n + 1) hassoc⟩

end Sys2Proof.Machine

/-! ### Address decomposition (40_cache_engine.md R131, R132) and its inverse `get_addr` (R141) -/

namespace Sys2Proof.Machine

theorem Cache.rowOf_eq_div_mod {c : Cache} (h : c.Sound) (a : Word) :
    c.rowOf a = a.toNat / 2 ^ c.blockOffsetBits % 2 ^ c.rowBits := by
  rw [Cache.rowOf_eq, h.rows_pow]

theorem Cache.tagOf_toNat (c : Cache) (a : Word) :
    (c.tagOf a).toNat = a.toNat / 2 ^ c.blockOffsetBits / 2 ^ c.rowBits := by
  rw [Cache.tagOf, BitVec.toNat_ushiftRight, Nat.shiftRight_eq_div_pow, Cache.tagShift, pow_add, Nat.div_div_eq_div_mul]

/-- Row and tag are together the number of the address's line (R131): its low and its high part. -/
theorem Cache.Sound.line_eq {c : Cache} (h : c.Sound) (a : Word) :
    a.toNat / 2 ^ c.blockOffsetBits = (c.tagOf a).toNat * 2 ^ c.rowBits + c.rowOf a := by
  rw [Cache.tagOf_toNat, Cache.rowOf_eq_div_mod h, Nat.div_add_mod']

/-- Two addresses have one row and one tag exactly if they lie in one line (R131). -/
theorem Cache.Sound.same_line_iff {c : Cache} (h : c.Sound) (a a' : Word) :
    (c.rowOf a = c.rowOf a' ∧ c.tagOf a = c.tagOf a') ↔ a.toNat / c.blockSize = a'.toNat / c.blockSize := by
  rw [h.block_pow]
  constructor
  · rintro ⟨hrow, htag⟩
    rw [h.line_eq, h.line_eq, hrow, htag]
  · intro hline
    refine ⟨?row, BitVec.eq_of_toNat_eq ?tag⟩
    case row => rw [Cache.rowOf_eq_div_mod h, Cache.rowOf_eq_div_mod h, hline]
    case tag => rw [Cache.tagOf_toNat, Cache.tagOf_toNat, hline]

/-- A tag shift of all 32 bits leaves nothing of the address (R131). -/
theorem Cache.tagOf_of_wide_shift {c : Cache} (h : 32 ≤ c.blockOffsetBits + c.rowBits) (a : Word) :
    c.tagOf a = 0#32 := by
  have hnarrow := c.tagOf_narrow a
  rw [Config.xlen, Cache.tagShift, Nat.sub_eq_zero_of_le h, pow_zero, Nat.lt_one_iff] at hnarrow
  exact BitVec.eq_of_toNat_eq hnarrow

/-- Settles O33: the address is its line number and its offset, and the line number is tag and row. -/
theorem addressIsTagRowOffset : Obligations.AddressIsTagRowOffset := by
  intro k a h
  refine ⟨h.rowOf_lt a, ?offset, ?parts, fun hwide => Cache.tagOf_of_wide_shift hwide a, h.same_line_iff a⟩
  case offset =>
    rw [h.block_pow]
    exact Nat.mod_lt _ (by positivity)
  case parts =>
    calc a.toNat = a.toNat / 2 ^ k.blockOffsetBits * 2 ^ k.blockOffsetBits + k.offsetOf a :=
          (Nat.div_add_mod' _ _).symm
      _ = _ := by rw [h.line_eq a, pow_add]; ring

/-- The parts of an address that is written as tag, row and offset (R131). -/
theorem Cache.Sound.parts_of_toNat {c : Cache} (h : c.Sound) {a tag : Word} {row offset : Nat}
    (hrow : row < 2 ^ c.rowBits) (hoffset : offset < 2 ^ c.blockOffsetBits)
    (ha : a.toNat = (tag.toNat * 2 ^ c.rowBits + row) * 2 ^ c.blockOffsetBits + offset) :
    c.rowOf a = row ∧ c.tagOf a = tag ∧ c.offsetOf a = offset := by
  have hline : a.toNat / 2 ^ c.blockOffsetBits = tag.toNat * 2 ^ c.rowBits + row := by
    rw [ha, Nat.mul_comm, Nat.mul_add_div (by positivity), Nat.div_eq_of_lt hoffset, Nat.add_zero]
  refine ⟨?row, BitVec.eq_of_toNat_eq ?tag, ?offset⟩
  case row => rw [Cache.rowOf_eq_div_mod h, hline, Nat.mul_add_mod_of_lt hrow]
  case tag =>
    rw [Cache.tagOf_toNat, hline, Nat.mul_comm, Nat.mul_add_div (by positivity), Nat.div_eq_of_lt hrow, Nat.add_zero]
  case offset => rw [Cache.offsetOf, ha, Nat.mul_add_mod_of_lt hoffset]

/-- `get_addr` of a valid entry loses nothing of a tag that is narrow enough, nor of a row that has an address: the shifts
do not overflow and the two parts do not overlap (R22, R141). -/
theorem Cache.Sound.getAddr_toNat {c : Cache} (h : c.Sound) {row way : Nat} (hvalid : c.isBlockValid row way = true)
    (haddr : row * 2 ^ c.blockOffsetBits < 2 ^ 32) :
    (c.getAddr row way).toNat
      = ((c.entry row way).tag.toNat * 2 ^ c.rowBits + row) * 2 ^ c.blockOffsetBits := by
  obtain ⟨-, hrow, hway, -⟩ := (c.isBlockValid_iff row way).1 hvalid
  have hnarrow := h.tags_narrow row way hrow hway
  rw [h.rows_pow] at hrow
  rw [Cache.getAddr_of_valid hvalid]
  generalize (c.entry row way).tag = tag at hnarrow ⊢
  have htag : tag.toNat * 2 ^ (c.blockOffsetBits + c.rowBits) < 2 ^ 32 := by
    rw [Config.xlen, Cache.tagShift] at hnarrow
    by_cases hwide : 32 ≤ c.blockOffsetBits + c.rowBits
    · rw [Nat.sub_eq_zero_of_le hwide, pow_zero, Nat.lt_one_iff] at hnarrow
      simp [hnarrow]
    · calc tag.toNat * 2 ^ (c.blockOffsetBits + c.rowBits)
          < 2 ^ (32 - (c.blockOffsetBits + c.rowBits)) * 2 ^ (c.blockOffsetBits + c.rowBits) :=
            Nat.mul_lt_mul_of_pos_right hnarrow (by positivity)
        _ = 2 ^ 32 := by rw [← pow_add, Nat.sub_add_cancel (by omega)]
  have hlow : row * 2 ^ c.blockOffsetBits < 2 ^ (c.blockOffsetBits + c.rowBits) := by
    rw [pow_add, Nat.mul_comm]
    exact Nat.mul_lt_mul_of_pos_left hrow (by positivity)
  have hrow32 : (BitVec.ofNat 32 row <<< c.blockOffsetBits).toNat = row * 2 ^ c.blockOffsetBits := by
    have hlt : row < 2 ^ 32 := (Nat.le_mul_of_pos_right row (by positivity)).trans_lt haddr
    rw [BitVec.toNat_shiftLeft, BitVec.toNat_ofNat, Nat.mod_eq_of_lt hlt, Nat.shiftLeft_eq, Nat.mod_eq_of_lt haddr]
  calc ((tag <<< (c.blockOffsetBits + c.rowBits)) ||| (BitVec.ofNat 32 row <<< c.blockOffsetBits)).toNat
      = (tag.toNat <<< (c.blockOffsetBits + c.rowBits)) ||| (row * 2 ^ c.blockOffsetBits) := by
        rw [BitVec.toNat_or, hrow32, BitVec.toNat_shiftLeft, Nat.shiftLeft_eq, Nat.mod_eq_of_lt htag]
    _ = (tag.toNat <<< (c.blockOffsetBits + c.rowBits)) + row * 2 ^ c.blockOffsetBits :=
        (Nat.shiftLeft_add_eq_or_of_lt hlow _).symm
    _ = (tag.toNat * 2 ^ c.rowBits + row) * 2 ^ c.blockOffsetBits := by
        rw [Nat.shiftLeft_eq, pow_add]
        ring

/-- Settles O34: the address is the entry's tag and row with offset 0, so these are its parts. -/
theorem probedAddressMapsBack : Obligations.ProbedAddressMapsBack := by
  intro k row way h hvalid haddr
  have hrow : row < 2 ^ k.rowBits := h.rows_pow ▸ ((k.isBlockValid_iff row way).1 hvalid).2.1
  exact h.parts_of_toNat hrow (by positivity) (h.getAddr_toNat hvalid haddr)

/-! ### A load makes its line resident (R26, R137) -/

/-- A load moves neither the rows nor the tags of addresses. -/
theorem Cache.load_rowOf (c : Cache) (a x : Word) : (c.load a).2.rowOf x = c.rowOf x := by
  rw [(c.advances_load a).config]
  rfl

theorem Cache.load_tagOf (c : Cache) (a x : Word) : (c.load a).2.tagOf x = c.tagOf x := by
  rw [(c.advances_load a).config]
  rfl

theorem Cache.load_assoc (c : Cache) (a : Word) : (c.load a).2.assoc = c.assoc := by
  rw [(c.advances_load a).config]

theorem Cache.load_live (c : Cache) (a : Word) : (c.load a).2.live = c.live := by
  rcases c.load_cases a with ⟨-, e⟩ | ⟨-, -, e⟩ | ⟨-, -, e⟩ <;> rw [e]
  exact Cache.fill_live _ _ _

/-- A fill makes its line resident (R134). -/
theorem Cache.Fillable.resident_fill {c : Cache} (h : c.Fillable) (row : Nat) (tag : Word) :
    (c.fill row tag).Resident row tag := by
  have hway := h.targetWay_lt row
  refine ⟨c.targetWay row, by rwa [Cache.fill_assoc], ?_⟩
  rw [h.entry_fill row tag hway, if_pos ⟨rfl, rfl⟩]

/-- After a load its line is resident: it was, or it has been filled (R137). -/
theorem Cache.Sound.resident_load {c : Cache} (h : c.Sound) (hlive : c.live = true) (a : Word) :
    (c.load a).2.Resident (c.rowOf a) (c.tagOf a) := by
  by_cases hres : c.Resident (c.rowOf a) (c.tagOf a)
  · rw [Cache.load_of_resident hlive hres]
    exact hres
  · rw [Cache.load_of_not_resident hlive hres]
    exact (h.fillable _).resident_fill _ _

/-- A resident line stands in exactly one way (R26(c)). -/
theorem Cache.Sound.resident_unique {c : Cache} (h : c.Sound) {row : Nat} {tag : Word} (hrow : row < c.rows)
    (hres : c.Resident row tag) :
    ∃ w < c.assoc, ∀ v < c.assoc, c.entry row v = { tag := tag, valid := true } ↔ v = w := by
  obtain ⟨w, hw, hentry⟩ := hres
  refine ⟨w, hw, fun v hv => ⟨fun hentry' => ?_, fun hvw => hvw ▸ hentry⟩⟩
  exact h.tags_distinct row v w hrow hv hw (by rw [hentry']) (by rw [hentry]) (by rw [hentry, hentry'])

/-- Settles O35: the first load makes the line resident, and the second address has its row and tag. -/
theorem loadAfterLoadHits : Obligations.LoadAfterLoadHits := by
  intro c a a' s b hb hsound hlive hline
  obtain ⟨hrow, htag⟩ := (hsound.same_line_iff a a').2 hline
  have hres := hsound.resident_load hlive a
  obtain ⟨k, hagain⟩ : ∃ k, ((b.withCache c ((b.cache c).load a).2).cache c).load a' = (.hit, k) := by
    rw [Block.cache_withCache_self]
    refine ⟨_, Cache.load_of_resident (by rw [Cache.load_live, hlive]) ?_⟩
    rwa [Cache.load_rowOf, Cache.load_tagOf, ← hrow, ← htag]
  refine ⟨_, _, b.withCache c ((b.cache c).load a).2, exec_load hb rfl, rfl, exec_load rfl hagain, rfl, ?_⟩
  rw [Block.cache_withCache_self]
  have hsound' := hsound.load a
  rw [← Cache.load_rowOf _ a, ← Cache.load_tagOf _ a] at hres
  exact hsound'.resident_unique (hsound'.rowOf_lt a) hres

end Sys2Proof.Machine

/-! ### Loads of distinct lines that find room (40_cache_engine.md R140) -/

namespace Sys2Proof.Machine

/-- The ways of the row whose entries are valid. -/
def Cache.validWays (c : Cache) (row : Nat) : Finset Nat :=
  (Finset.range c.assoc).filter fun way => (c.entry row way).valid = true

theorem Cache.mem_validWays (c : Cache) (row way : Nat) :
    way ∈ c.validWays row ↔ way < c.assoc ∧ (c.entry row way).valid = true := by
  simp [Cache.validWays]

/-- A row with fewer valid ways than ways has a free one (R134). -/
theorem Cache.exists_freeWay {c : Cache} {row : Nat} (h : (c.validWays row).card < c.assoc) :
    ∃ way, c.freeWay row = some way := by
  cases hfree : c.freeWay row with
  | some way => exact ⟨way, rfl⟩
  | none =>
    have hfull : c.validWays row = Finset.range c.assoc :=
      Finset.filter_true_of_mem fun way hway => c.freeWay_none.1 hfree way (Finset.mem_range.1 hway)
    rw [hfull, Finset.card_range] at h
    exact absurd h (lt_irrefl _)

/-- A fill makes one way of its row valid at most, and none of another row. -/
theorem Cache.Fillable.card_validWays_fill {c : Cache} (h : c.Fillable) (row : Nat) (tag : Word) (r : Nat) :
    ((c.fill row tag).validWays r).card ≤ (c.validWays r).card + if row = r then 1 else 0 := by
  by_cases hr : row = r
  · subst hr
    rw [if_pos rfl]
    have hsub : (c.fill row tag).validWays row ⊆ insert (c.targetWay row) (c.validWays row) := by
      intro way hmem
      obtain ⟨hway, hvalid⟩ := (Cache.mem_validWays _ _ _).1 hmem
      rw [Cache.fill_assoc] at hway
      rw [h.entry_fill row tag hway] at hvalid
      rw [Finset.mem_insert, Cache.mem_validWays]
      by_cases htarget : way = c.targetWay row
      · exact .inl htarget
      · rw [if_neg fun hslot => htarget hslot.2] at hvalid
        exact .inr ⟨hway, hvalid⟩
    exact (Finset.card_le_card hsub).trans (Finset.card_insert_le _ _)
  · rw [if_neg hr, Nat.add_zero]
    refine Finset.card_le_card fun way hmem => ?_
    obtain ⟨hway, hvalid⟩ := (Cache.mem_validWays _ _ _).1 hmem
    rw [Cache.fill_assoc] at hway
    rw [h.entry_fill row tag hway, if_neg fun hslot => hr hslot.1.symm] at hvalid
    exact (Cache.mem_validWays _ _ _).2 ⟨hway, hvalid⟩

/-- A fill makes no line resident but its own. -/
theorem Cache.Fillable.resident_of_resident_fill {c : Cache} (h : c.Fillable) {row r : Nat} {tag t : Word}
    (hres : (c.fill row tag).Resident r t) : (row = r ∧ tag = t) ∨ c.Resident r t := by
  obtain ⟨w, hw, hentry⟩ := hres
  rw [Cache.fill_assoc] at hw
  rw [h.entry_fill row tag hw] at hentry
  split_ifs at hentry with hslot
  · cases hentry
    exact .inl ⟨hslot.1.symm, rfl⟩
  · exact .inr ⟨w, hw, hentry⟩

/-- The cache can take the lines of the addresses without an eviction: they are distinct, none of them is resident, and
each row has a free way for every address that falls in it. -/
structure Cache.HasRoomFor (c : Cache) (addrs : List Word) : Prop where
  distinct : addrs.Pairwise fun a a' => ¬(c.rowOf a = c.rowOf a' ∧ c.tagOf a = c.tagOf a')
  absent : ∀ a ∈ addrs, ¬c.Resident (c.rowOf a) (c.tagOf a)
  room : ∀ row, (c.validWays row).card + (addrs.filter fun a => c.rowOf a == row).length ≤ c.assoc

/-- The first load misses, for its line is absent. -/
theorem Cache.HasRoomFor.load_eq {c : Cache} {a : Word} {rest : List Word} (h : c.HasRoomFor (a :: rest))
    (hlive : c.live = true) :
    (c.load a).2 = Cache.fill { c with counters := { c.counters with loadMisses := c.counters.loadMisses + 1 } }
      (c.rowOf a) (c.tagOf a) := by
  rw [Cache.load_of_not_resident hlive (h.absent a List.mem_cons_self)]

/-- The first load misses and fills a free way: two counters go up, the evictions do not. -/
theorem Cache.HasRoomFor.load_counters {c : Cache} {a : Word} {rest : List Word} (h : c.HasRoomFor (a :: rest))
    (hlive : c.live = true) :
    (c.load a).2.counters = { c.counters with
      loadMisses := c.counters.loadMisses + 1
      compulsoryMisses := c.counters.compulsoryMisses + 1 } := by
  have hroom := h.room (c.rowOf a)
  rw [List.filter_cons, if_pos (beq_self_eq_true _), List.length_cons] at hroom
  obtain ⟨way, hfree⟩ := c.exists_freeWay (row := c.rowOf a) (by omega)
  rw [h.load_eq hlive]
  exact Cache.fill_counters_of_free
    (c := { c with counters := { c.counters with loadMisses := c.counters.loadMisses + 1 } }) hfree _

/-- After the first load there is room for the rest. -/
theorem Cache.HasRoomFor.load {c : Cache} {a : Word} {rest : List Word} (h : c.HasRoomFor (a :: rest))
    (hsound : c.Sound) (hlive : c.live = true) : (c.load a).2.HasRoomFor rest := by
  obtain ⟨hfirst, hrest⟩ := List.pairwise_cons.1 h.distinct
  constructor <;> simp only [Cache.load_rowOf, Cache.load_tagOf, Cache.load_assoc]
  case distinct => exact hrest
  case absent =>
    intro x hx hres
    rw [h.load_eq hlive] at hres
    rcases (hsound.fillable _).resident_of_resident_fill hres with hsame | hold
    · exact hfirst x hx hsame
    · exact h.absent x (List.mem_cons_of_mem a hx) hold
  case room =>
    intro row
    have hcard : ((c.load a).2.validWays row).card ≤ (c.validWays row).card + if c.rowOf a = row then 1 else 0 := by
      rw [h.load_eq hlive]
      exact (hsound.fillable _).card_validWays_fill (c.rowOf a) (c.tagOf a) row
    have hroom := h.room row
    rw [List.filter_cons] at hroom
    by_cases hrow : c.rowOf a = row
    · simp only [hrow, beq_self_eq_true, if_true, List.length_cons] at hcard hroom
      omega
    · simp only [hrow, beq_iff_eq, if_false] at hcard hroom
      omega

/-- Loads of lines the cache has room for are all compulsory misses. -/
theorem Cache.Sound.counters_foldl_load {addrs : List Word} {c : Cache} (h : c.Sound) (hlive : c.live = true)
    (hroom : c.HasRoomFor addrs) :
    (addrs.foldl (fun c a => (c.load a).2) c).counters = { c.counters with
      loadMisses := c.counters.loadMisses + addrs.length
      compulsoryMisses := c.counters.compulsoryMisses + addrs.length } := by
  induction addrs generalizing c with
  | nil => rfl
  | cons a rest ih =>
    rw [List.foldl_cons, ih (h.load a) (by rw [Cache.load_live, hlive]) (hroom.load h hlive),
      hroom.load_counters hlive]
    simp only [List.length_cons, Nat.add_assoc, Nat.add_comm]

/-- With every valid bit clear there is room for distinct lines, at most `assoc` of them in a row. -/
theorem Cache.hasRoomFor_clearAllValid {c : Cache} (hwf : Memory.wf .unlisted c.entries = true) {addrs : List Word}
    (hdistinct : addrs.Pairwise fun a a' => ¬(c.rowOf a = c.rowOf a' ∧ c.tagOf a = c.tagOf a'))
    (hroom : ∀ row, (addrs.filter fun a => c.rowOf a == row).length ≤ c.assoc) :
    c.clearAllValid.HasRoomFor addrs where
  distinct := hdistinct
  absent := by
    rintro a - ⟨w, -, hentry⟩
    rw [c.entry_clearAllValid hwf, Entry.eq_valid_iff] at hentry
    exact Bool.false_ne_true hentry.1
  room := by
    intro row
    have hempty : c.clearAllValid.validWays row = ∅ :=
      Finset.filter_false_of_mem fun way _ => by simp [c.entry_clearAllValid hwf]
    rw [hempty, Finset.card_empty, Nat.zero_add]
    exact hroom row

/-- Settles O36: after `invalidate_all` there is room for the lines, and `counters_foldl_load` counts them. -/
theorem loadsAfterInvalidateAllNeverEvict : Obligations.LoadsAfterInvalidateAllNeverEvict := by
  intro k addrs h hlive hdistinct hroom n
  have hsound := h.invalidateAll
  rw [Cache.invalidateAll_of_live hlive] at hsound ⊢
  exact hsound.counters_foldl_load hlive (Cache.hasRoomFor_clearAllValid h.entries_wf hdistinct hroom)

/-! ### ROUND_ROBIN is first in, first out (40_cache_engine.md R147) -/

/-- A filled cache can be filled again. -/
theorem Cache.Fillable.fill {c : Cache} (h : c.Fillable) {row : Nat} (hrow : row < c.rows) (tag : Word) :
    (c.fill row tag).Fillable where
  assoc_pos := by
    rw [Cache.fill_assoc]
    exact h.assoc_pos
  entries_wf := by
    rw [Cache.fill_eq]
    exact Memory.wf_write _ h.entries_wf _ _
  repl_sound := by
    rw [Cache.fill_eq]
    exact c.filledRepl_sound row hrow h.assoc_pos h.repl_sound

/-- The row holds what the fills of `tags` in this order leave in a row that was empty with cursor 0: the ways are taken
in turn, and the cursor moves once the row is full (R134, R135, R147). -/
structure Cache.FilledInTurn (c : Cache) (row : Nat) (tags : List Word) : Prop where
  fillable : c.Fillable
  row_lt : row < c.rows
  cursor : ∃ cursors, c.repl = .roundRobin cursors
    ∧ Memory.read 0 cursors row = (tags.length - c.assoc) % c.assoc
  valid_iff : ∀ way < c.assoc, (c.entry row way).valid = true ↔ way < tags.length
  last : ∀ j tag, tags[j]? = some tag → tags.length ≤ j + c.assoc →
    c.entry row (j % c.assoc) = { tag := tag, valid := true }

/-- While a way is free, the next fill takes the way after those filled. -/
theorem Cache.FilledInTurn.freeWay_of_lt {c : Cache} {row : Nat} {tags : List Word} (h : c.FilledInTurn row tags)
    (hlt : tags.length < c.assoc) : c.freeWay row = some tags.length := by
  refine c.freeWay_some.2 ⟨hlt, ?_, fun v hv => (h.valid_iff v (hv.trans hlt)).2 hv⟩
  exact Bool.eq_false_iff.2 fun hvalid => lt_irrefl _ ((h.valid_iff _ hlt).1 hvalid)

/-- After `assoc` fills no way is free. -/
theorem Cache.FilledInTurn.freeWay_of_le {c : Cache} {row : Nat} {tags : List Word} (h : c.FilledInTurn row tags)
    (hle : c.assoc ≤ tags.length) : c.freeWay row = none :=
  c.freeWay_none.2 fun way hway => (h.valid_iff way hway).2 (hway.trans_le hle)

/-- The next fill takes the ways in turn, whether one is free or a victim is selected. -/
theorem Cache.FilledInTurn.targetWay {c : Cache} {row : Nat} {tags : List Word} (h : c.FilledInTurn row tags) :
    c.targetWay row = tags.length % c.assoc := by
  by_cases hlt : tags.length < c.assoc
  · rw [Cache.targetWay_of_free (h.freeWay_of_lt hlt), Nat.mod_eq_of_lt hlt]
  · obtain ⟨cursors, hrepl, hread⟩ := h.cursor
    have hle : c.assoc ≤ tags.length := not_lt.1 hlt
    rw [Cache.targetWay_of_full (h.freeWay_of_le hle), Cache.victimWay_of_roundRobin hrepl, hread,
      ← Nat.mod_eq_sub_mod hle]

/-- The cursor stands still while a way is free, and then goes on by one (R133, R135). -/
theorem Cache.FilledInTurn.cursor_fill {c : Cache} {row : Nat} {tags : List Word} (h : c.FilledInTurn row tags)
    (tag : Word) : ∃ cursors, (c.fill row tag).repl = .roundRobin cursors
      ∧ Memory.read 0 cursors row = (tags.length + 1 - c.assoc) % c.assoc := by
  obtain ⟨cursors, hrepl, hread⟩ := h.cursor
  by_cases hlt : tags.length < c.assoc
  · refine ⟨cursors, (Cache.fill_repl_of_free (h.freeWay_of_lt hlt) tag).trans hrepl, ?_⟩
    rw [hread, Nat.sub_eq_zero_of_le hlt.le, Nat.sub_eq_zero_of_le hlt]
  · have hle : c.assoc ≤ tags.length := not_lt.1 hlt
    rw [Cache.fill_repl_of_full (h.freeWay_of_le hle), Cache.victimRepl_of_roundRobin hrepl]
    refine ⟨_, rfl, ?_⟩
    rw [Memory.read_write_self _ (h.fillable.cursors_wf hrepl), hread, Nat.mod_add_mod, Nat.sub_add_comm hle]

/-- Of the last `assoc` numbers no two are the same modulo `assoc`. -/
theorem mod_ne_of_lt_of_lt_add {j n m : Nat} (hj : j < n) (hn : n < j + m) : j % m ≠ n % m := by
  intro heq
  have hdvd : m ∣ n - j := (Nat.modEq_iff_dvd' hj.le).1 heq
  have hle := Nat.le_of_dvd (by omega) hdvd
  omega

/-- One more fill goes on in turn. -/
theorem Cache.FilledInTurn.fill {c : Cache} {row : Nat} {tags : List Word} (h : c.FilledInTurn row tags)
    (tag : Word) : (c.fill row tag).FilledInTurn row (tags ++ [tag]) := by
  have hpos := h.fillable.assoc_pos
  have hentry : ∀ way < c.assoc, (c.fill row tag).entry row way
      = if way = tags.length % c.assoc then { tag := tag, valid := true } else c.entry row way := by
    intro way hway
    rw [h.fillable.entry_fill row tag hway, h.targetWay]
    simp only [true_and]
  refine { fillable := h.fillable.fill h.row_lt tag, row_lt := by rw [Cache.fill_rows]; exact h.row_lt
           cursor := ?cursor, valid_iff := ?valid, last := ?last }
    <;> simp only [Cache.fill_assoc, List.length_append, List.length_singleton]
  case cursor => exact h.cursor_fill tag
  case valid =>
    intro way hway
    rw [hentry way hway]
    have hold := h.valid_iff way hway
    split_ifs with htarget
    · have hle := htarget ▸ Nat.mod_le tags.length c.assoc
      simp only [true_iff]
      omega
    · rw [hold]
      have hne : way ≠ tags.length := by
        rintro rfl
        exact htarget (Nat.mod_eq_of_lt hway).symm
      omega
  case last =>
    intro j tag' hj hlast
    have hway : j % c.assoc < c.assoc := Nat.mod_lt j hpos
    rw [hentry _ hway]
    rcases Nat.lt_trichotomy j tags.length with hlt | rfl | hgt
    · rw [List.getElem?_append_left hlt] at hj
      rw [if_neg (mod_ne_of_lt_of_lt_add hlt (by omega))]
      exact h.last j tag' hj (by omega)
    · rw [List.getElem?_concat_length] at hj
      cases hj
      rw [if_pos rfl]
    · rw [List.getElem?_eq_none (by rw [List.length_append, List.length_singleton]; omega)] at hj
      cases hj

/-- Fills of a whole list go on in turn. -/
theorem Cache.FilledInTurn.foldl {c : Cache} {row : Nat} {done : List Word} (h : c.FilledInTurn row done)
    (tags : List Word) :
    (tags.foldl (fun c tag => c.fill row tag) c).FilledInTurn row (done ++ tags) := by
  induction tags generalizing c done with
  | nil => rwa [List.append_nil]
  | cons tag rest ih =>
    rw [List.foldl_cons, List.append_cons]
    exact ih (h.fill tag)

/-- The fills leave the number of ways. -/
theorem Cache.foldl_fill_assoc (c : Cache) (row : Nat) (tags : List Word) :
    (tags.foldl (fun c tag => c.fill row tag) c).assoc = c.assoc := by
  induction tags generalizing c with
  | nil => rfl
  | cons tag rest ih => rw [List.foldl_cons, ih, Cache.fill_assoc]

/-- Settles O37: an empty row with cursor 0 is filled in turn by no tags, and by `FilledInTurn.foldl` then by all. -/
theorem roundRobinFillsAreFirstInFirstOut : Obligations.RoundRobinFillsAreFirstInFirstOut := by
  intro k cursors row tags h hrepl hrow hcursor hempty k' j hj hlast
  have hstart : k.FilledInTurn row [] :=
    { fillable := h.fillable k.counters
      row_lt := hrow
      cursor := ⟨cursors, hrepl, by rw [hcursor, List.length_nil, Nat.zero_sub, Nat.zero_mod]⟩
      valid_iff := fun way hway => by simp [hempty way hway]
      last := fun j tag hj => by simp at hj }
  have hend : k'.FilledInTurn row tags := hstart.foldl tags
  have hassoc : k'.assoc = k.assoc := k.foldl_fill_assoc row tags
  have hentry := hend.last j tags[j] (List.getElem?_eq_getElem hj)
  rw [hassoc] at hentry
  exact hentry hlast

end Sys2Proof.Machine

/-! ### The load/store words (42_classifier_loadstore.md sections 1 to 3): the record of the row, the fetch, nothing else (R301) -/

namespace Sys2Proof.Machine

/-- A word row whose record has no cache-control operation is its record in `cur` and the fetch (R301). -/
theorem exec_eq_afterFetch {i : Instr} {s : State} {b : Block} (hb : s.block = some b) {r : Classification}
    (hrow : wordRecord i = some r) (hop : r.cacheOp = .noOp) : exec i s = .next (afterFetch s b r) := by
  rw [exec_of_wordRecord hrow, onWord_eq_afterFetch hb hop]

/-- A word row with the category and the direction of its identifier written out, as the statements write them (R105,
R106, R301). -/
theorem exec_eq_afterFetch_of_recordOf {i : Instr} {s : State} {b : Block} (hb : s.block = some b) {id : Identifier}
    {category : Category} {direction : Direction} {format : Format} {cond : BitVec 4} {fields : Fields}
    (hrow : wordRecord i = some (recordOf id format cond fields))
    (hop : (recordOf id format cond fields).cacheOp = .noOp)
    (hcategory : id.category = category) (hdirection : id.direction = direction) :
    exec i s = .next (afterFetch s b { id := id, category := category, direction := direction, format := some format
                                       cond := cond, fields := fields }) := by
  subst hcategory hdirection
  exact exec_eq_afterFetch hb hrow hop

/-- The record of an extra word, with the choice of `w[22]` in its format and in its field set (R215). -/
theorem recordXls_eq_recordOf (id : Identifier) (f : Xls) :
    recordXls id f =
      recordOf id (if f.i = true then .xlsImm else .xlsReg) f.cond
        (if f.i = true then
          .extraImm f.rn f.rt (addrFlags f.p f.u f.w) (f.hi ++ f.lo) ((f.hi ++ f.lo).setWidth 32)
        else .extraReg f.rn f.rt (addrFlags f.p f.u f.w) f.lo) := by
  unfold recordXls
  cases f.i <;> rfl

/-- Settles O13: each of the ten rows has the immediate record of its identifier. -/
theorem regularImmediateWordsComplete : Obligations.RegularImmediateWordsComplete := by
  intro f s b hb record
  have hrow {i : Instr} {id : Identifier} {d : Direction} (hi : wordRecord i = some (recordLsImm id f))
      (hregular : id.category = .regular) (hd : id.direction = d) : exec i s = .next (afterFetch s b (record id d)) :=
    exec_eq_afterFetch_of_recordOf hb hi (recordLsImm_cacheOp id f) hregular hd
  and_intros <;> exact hrow rfl rfl rfl

/-- Settles O14: each of the eight rows has the register record of its identifier. -/
theorem regularRegisterWordsComplete : Obligations.RegularRegisterWordsComplete := by
  intro f s b hb record
  have hrow {i : Instr} {id : Identifier} {d : Direction} (hi : wordRecord i = some (recordLsReg id f))
      (hregular : id.category = .regular) (hd : id.direction = d) : exec i s = .next (afterFetch s b (record id d)) :=
    exec_eq_afterFetch_of_recordOf hb hi (recordLsReg_cacheOp id f) hregular hd
  and_intros <;> exact hrow rfl rfl rfl

/-- Settles O15: each of the twenty rows has the extra record of its identifier, in the field set that `w[22]` chooses. -/
theorem extraWordsComplete : Obligations.ExtraWordsComplete := by
  intro f s b hb flags record
  have hrow {i : Instr} {id : Identifier} {d : Direction} (hi : wordRecord i = some (recordXls id f))
      (hextra : id.category = .extra) (hd : id.direction = d) : exec i s = .next (afterFetch s b (record id d)) := by
    have hop := recordXls_cacheOp id f
    rw [recordXls_eq_recordOf] at hi hop
    exact exec_eq_afterFetch_of_recordOf hb hi hop hextra hd
  and_intros <;> exact hrow rfl rfl rfl

/-- Settles O16: each of the ten rows has the synchronization record of its identifier and its `op`. -/
theorem synchronizationWordsComplete : Obligations.SynchronizationWordsComplete := by
  intro f s b hb record
  have hrow {i : Instr} {id : Identifier} {d : Direction} {op : BitVec 4} (hi : wordRecord i = some (recordSync id op f))
      (hsync : id.category = .sync) (hd : id.direction = d) : exec i s = .next (afterFetch s b (record id d op)) :=
    exec_eq_afterFetch_of_recordOf hb hi (recordSync_cacheOp id op f) hsync hd
  and_intros <;> exact hrow rfl rfl rfl

end Sys2Proof.Machine

/-! ### The block transfer and coprocessor words (43_classifier_block_coproc.md): the record, the fetch, and DCISW after it (R301) -/

namespace Sys2Proof.Machine

/-- Settles O17: each of the thirteen rows has the block record of its identifier. -/
theorem blockTransferWordsComplete : Obligations.BlockTransferWordsComplete := by
  intro f s b hb record
  have hrow {i : Instr} {id : Identifier} {d : Direction} (hi : wordRecord i = some (recordBlk id f))
      (hblock : id.category = .block) (hd : id.direction = d) : exec i s = .next (afterFetch s b (record id d)) :=
    exec_eq_afterFetch_of_recordOf hb hi (recordBlk_cacheOp id f) hblock hd
  and_intros <;> exact hrow rfl rfl rfl

/-- Settles O18: each of the three rows has the coprocessor load/store record of its identifier. -/
theorem coprocessorLoadStoreWordsComplete : Obligations.CoprocessorLoadStoreWordsComplete := by
  intro f s b hb record
  have hrow {i : Instr} {id : Identifier} {d : Direction} (hi : wordRecord i = some (recordCpLs id f))
      (hcoproc : id.category = .coproc) (hd : id.direction = d) : exec i s = .next (afterFetch s b (record id d)) :=
    exec_eq_afterFetch_of_recordOf hb hi (recordCpLs_cacheOp id f) hcoproc hd
  and_intros <;> exact hrow rfl rfl rfl

/-- Settles O19: both rows have the register-transfer record of their identifier, with no cache-control operation. The
model gives `cpMcr` this record whatever its operands, so well-formedness, which keeps the operand sets of DCISW and
ICIALLU to their own rows, is not used. -/
theorem registerTransferWordsComplete : Obligations.RegisterTransferWordsComplete := by
  intro f s b hb record
  have hrow {i : Instr} {id : Identifier} (hi : wordRecord i = some (recordCpRt id .noOp f))
      (hcoproc : id.category = .coproc) (hnone : id.direction = .noDirection) :
      exec i s = .next (afterFetch s b (record id)) :=
    exec_eq_afterFetch_of_recordOf hb hi (recordCpRt_cacheOp id .noOp f) hcoproc hnone
  exact ⟨fun _ => hrow rfl rfl rfl, hrow rfl rfl rfl⟩

/-! ### DCISW (R281, R303, R307) -/

/-- The field *set* of a DCISW payload as arithmetic (R303). -/
theorem dciswSet_eq (v : Word) : dciswSet v = v.toNat / 2 ^ 4 % 2 ^ 10 := by
  rw [dciswSet, BitVec.extractLsb'_toNat, Nat.shiftRight_eq_div_pow]

/-- The field *way* of a DCISW payload, its two top bits, as arithmetic (R303). -/
theorem dciswWay_eq (v : Word) : dciswWay v = v.toNat / 2 ^ 30 := by
  have htop : v.toNat / 2 ^ 30 < 2 ^ 2 := Nat.div_lt_of_lt_mul v.isLt
  rw [dciswWay, BitVec.extractLsb'_toNat, Nat.shiftRight_eq_div_pow, Nat.mod_eq_of_lt htop]

@[simp] theorem fetchEffect_cur (b : Block) (v : Word) : (fetchEffect b v).1.cur = b.cur := by
  rw [← Block.fetch_eq, Block.fetch_cur]

/-- The fetch loads into the I-cache and into L2, and leaves the D-cache alone (R302). -/
@[simp] theorem fetchEffect_dcache (b : Block) (v : Word) : (fetchEffect b v).1.dcache = b.dcache := by
  rw [← Block.fetch_eq]
  rcases b.fetch_block v with e | ⟨inj, e⟩ <;> rw [e]
  rfl

@[simp] theorem fetchEffect_armEnable (b : Block) (v : Word) : (fetchEffect b v).1.armEnable = b.armEnable := by
  rw [← Block.fetch_eq]
  rcases b.fetch_block v with e | ⟨inj, e⟩ <;> rw [e]
  rfl

/-- A word row is its record in `cur`, the fetch, and the cache-control part (R301). -/
theorem exec_eq_fetchEffect_cacheControl {i : Instr} {s : State} {b : Block} (hb : s.block = some b)
    {r : Classification} (hrow : wordRecord i = some r) :
    exec i s =
      .next { s with
        block := some ((fetchEffect { b with cur := r } s.insnVaddr).1.cacheControl s.gpr)
        outputs := s.outputs ++ (fetchEffect { b with cur := r } s.insnVaddr).2 } := by
  simp only [exec_of_wordRecord hrow, State.onWord, State.onBlock_some _ _ _ hb, Block.runWord, Block.fetch_eq]

/-- What the cache-control part of a DCISW makes of a D-cache, for the value `v` of `gpr[Rt]` (R303, R307). -/
def Cache.afterDcisw (c : Cache) (enabled : Bool) (v : Word) : Cache :=
  if enabled then c.invalidateBlock (dciswSet v) (dciswWay v) else c

/-- With a DCISW record in `cur` the cache-control part acts on the D-cache alone (R303, R307). -/
theorem Block.cacheControl_of_dcisw {b : Block} (hop : b.cur.cacheOp = .dcisw) (g : Vector Word 16) :
    b.cacheControl g =
      { b with dcache :=
          b.dcache.afterDcisw b.armEnable (g.get ⟨b.cur.transferReg.toNat, b.cur.transferReg.isLt⟩) } := by
  simp only [Block.cacheControl, hop, Cache.afterDcisw]
  split <;> rfl

/-- Cache control disabled, the D-cache torn down or an index out of range: DCISW leaves the D-cache alone (R303, R307). -/
theorem Cache.afterDcisw_of_blocked {c : Cache} {enabled : Bool} {v : Word}
    (h : ¬(enabled = true ∧ c.live = true ∧ dciswSet v < c.rows ∧ dciswWay v < c.assoc)) :
    c.afterDcisw enabled v = c := by
  unfold Cache.afterDcisw
  split
  next henabled => exact invalidateBlock_of_not_inRange fun hrange => h ⟨henabled, hrange⟩
  next => rfl

/-- Otherwise DCISW clears the valid bit of the entry that its payload names (R303). -/
theorem Cache.afterDcisw_of_inRange {c : Cache} {enabled : Bool} {v : Word} (henabled : enabled = true)
    (hlive : c.live = true) (hset : dciswSet v < c.rows) (hway : dciswWay v < c.assoc) :
    c.afterDcisw enabled v = c.clearValid (dciswSet v) (dciswWay v) := by
  rw [afterDcisw, if_pos henabled, invalidateBlock_of_inRange hlive hset hway]

/-- DCISW is its record in `cur`, the fetch, and then the D-cache alone changed (R281, R301). -/
theorem exec_dcisw {s : State} {b : Block} (hb : s.block = some b) (f : CacheCtl) {r : Classification}
    (hrow : wordRecord (.dcisw f) = some r) :
    exec (.dcisw f) s =
      .next { s with
        block := some { (fetchEffect { b with cur := r } s.insnVaddr).1 with
          dcache := b.dcache.afterDcisw b.armEnable (s.gpr.get ⟨f.rt.toNat, f.rt.isLt⟩) }
        outputs := s.outputs ++ (fetchEffect { b with cur := r } s.insnVaddr).2 } := by
  obtain rfl : recordCpRt .cpMcr .dcisw f.asDcisw = r := Option.some.inj hrow
  have hreg : (recordCpRt .cpMcr .dcisw f.asDcisw).transferReg = f.rt := rfl
  rw [exec_eq_fetchEffect_cacheControl hb hrow, Block.cacheControl_of_dcisw (by simp)]
  simp only [fetchEffect_cur, fetchEffect_dcache, fetchEffect_armEnable, hreg]

/-- Settles O21: after the fetch the D-cache is as it was, or has the one entry that the payload names written. -/
theorem dciswInvalidatesTheNamedEntry : Obligations.DciswInvalidatesTheNamedEntry := by
  intro f s b hb hwf record done v row way
  have hexec := exec_dcisw hb f (r := record) rfl
  have hset : dciswSet (s.gpr.get ⟨f.rt.toNat, f.rt.isLt⟩) = row := dciswSet_eq _
  have hway : dciswWay (s.gpr.get ⟨f.rt.toNat, f.rt.isLt⟩) = way := dciswWay_eq _
  constructor
  · intro hblocked
    have hsame : { done.1 with dcache := b.dcache } = done.1 := by
      rw [← fetchEffect_dcache { b with cur := record } s.insnVaddr]
    rw [Cache.afterDcisw_of_blocked (by rwa [hset, hway])] at hexec
    exact hexec.trans (by rw [hsame])
  · intro henabled hlive hrow hinWays
    rw [Cache.afterDcisw_of_inRange henabled hlive (by rwa [hset]) (by rwa [hway]), hset, hway] at hexec
    exact ⟨b.dcache.clearValid row way, hexec, rfl, fun _ _ hw => Cache.entry_withEntry hwf _ hinWays hw⟩

end Sys2Proof.Machine

/-! ### ICIALLU (43_classifier_block_coproc.md R282, 44_access_driver.md R304, R307) -/

namespace Sys2Proof.Machine

/-- The fetch leaves the I-cache sound: it loads into it at most once (R302). -/
theorem Cache.Sound.fetchEffect_icache {b : Block} (h : b.icache.Sound) (v : Word) :
    (fetchEffect b v).1.icache.Sound := by
  rw [← Block.fetch_eq]
  rcases b.fetch_cache v .icache with e | e
  · exact (congrArg Cache.Sound e).mpr h
  · exact (congrArg Cache.Sound e).mpr (h.load v)

@[simp] theorem fetchEffect_icache_live (b : Block) (v : Word) :
    (fetchEffect b v).1.icache.live = b.icache.live := by
  rw [← Block.fetch_eq]
  rcases b.fetch_cache v .icache with e | e
  · exact congrArg Cache.live e
  · exact (congrArg Cache.live e).trans (Cache.load_live _ v)

/-- What the cache-control part of an ICIALLU makes of an I-cache (R304, R307). -/
def Cache.afterIciallu (c : Cache) (enabled : Bool) : Cache :=
  if enabled then c.invalidateAll else c

/-- With an ICIALLU record in `cur` the cache-control part acts on the I-cache alone and reads no register (R304, R307). -/
theorem Block.cacheControl_of_iciallu {b : Block} (hop : b.cur.cacheOp = .iciallu) (g : Vector Word 16) :
    b.cacheControl g = { b with icache := b.icache.afterIciallu b.armEnable } := by
  simp only [Block.cacheControl, hop, Cache.afterIciallu]
  split <;> rfl

/-- Cache control disabled or the I-cache torn down: ICIALLU leaves the I-cache alone (R304, R307). -/
theorem Cache.afterIciallu_of_blocked {c : Cache} {enabled : Bool} (h : ¬(enabled = true ∧ c.live = true)) :
    c.afterIciallu enabled = c := by
  unfold Cache.afterIciallu
  split
  next henabled => exact invalidateAll_of_dead (Bool.eq_false_iff.2 fun hlive => h ⟨henabled, hlive⟩)
  next => rfl

/-- Otherwise ICIALLU clears every valid bit of the I-cache (R304). -/
theorem Cache.afterIciallu_of_live {c : Cache} {enabled : Bool} (henabled : enabled = true) (hlive : c.live = true) :
    c.afterIciallu enabled = c.clearAllValid := by
  rw [afterIciallu, if_pos henabled, invalidateAll_of_live hlive]

/-- ICIALLU is its record in `cur`, the fetch, and then the I-cache alone changed (R282, R301). -/
theorem exec_iciallu {s : State} {b : Block} (hb : s.block = some b) (f : CacheCtl) {r : Classification}
    (hrow : wordRecord (.iciallu f) = some r) :
    exec (.iciallu f) s =
      .next { s with
        block := some { (fetchEffect { b with cur := r } s.insnVaddr).1 with
          icache := (fetchEffect { b with cur := r } s.insnVaddr).1.icache.afterIciallu b.armEnable }
        outputs := s.outputs ++ (fetchEffect { b with cur := r } s.insnVaddr).2 } := by
  obtain rfl : recordCpRt .cpMcr .iciallu f.asIciallu = r := Option.some.inj hrow
  rw [exec_eq_fetchEffect_cacheControl hb hrow, Block.cacheControl_of_iciallu (by simp)]
  simp only [fetchEffect_armEnable]

/-- With every valid bit clear no line is resident (R132, R140). -/
theorem Cache.not_resident_clearAllValid {c : Cache} (hwf : Memory.wf .unlisted c.entries = true) (row : Nat)
    (tag : Word) : ¬c.clearAllValid.Resident row tag := by
  rintro ⟨w, -, hentry⟩
  rw [c.entry_clearAllValid hwf, Entry.eq_valid_iff] at hentry
  exact Bool.false_ne_true hentry.1

/-- Settles O22: the I-cache that the fetch left stays as it is, or has every valid bit cleared, so that no line is
resident in it. -/
theorem icialluInvalidatesTheInstructionCache : Obligations.IcialluInvalidatesTheInstructionCache := by
  intro f s b hb hsound record done
  have hexec := exec_iciallu hb f (r := record) rfl
  have hdoneLive : done.1.icache.live = b.icache.live := fetchEffect_icache_live _ _
  have hdoneSound : done.1.icache.Sound := Cache.Sound.fetchEffect_icache (b := { b with cur := record }) hsound _
  constructor
  · intro hblocked
    rw [Cache.afterIciallu_of_blocked (by rwa [fetchEffect_icache_live])] at hexec
    exact hexec
  · intro henabled hlive
    have hdoneLive := hdoneLive.trans hlive
    rw [Cache.afterIciallu_of_live henabled hdoneLive] at hexec
    refine ⟨done.1.icache.clearAllValid, hexec, rfl, Cache.entry_clearAllValid _ hdoneSound.entries_wf, fun a => ?miss⟩
    case miss =>
      rw [Cache.load_of_not_resident (c := done.1.icache.clearAllValid) hdoneLive
        (Cache.not_resident_clearAllValid hdoneSound.entries_wf _ _)]

/-! ### The payload of DCISW (R303, R388) -/

/-- Settles O58: the payload is below 2^32, and its fields are its quotients and remainders by powers of two. -/
theorem dciswPayloadPlacement : Obligations.DciswPayloadPlacement := by
  intro way set ignored low hway hset hignored hlow
  simp only [dciswWay_eq, dciswSet_eq, BitVec.toNat_ofNat]
  refine ⟨?way, ?set, ?architectural⟩
  case way => omega
  case set => omega
  case architectural => omega

end Sys2Proof.Machine

/-! ### Memory events (44_access_driver.md R305, R306) -/

namespace Sys2Proof.Machine

/-- A memory event acts through the block alone and has no output (R305). -/
theorem exec_memAccess {s : State} {b : Block} (hb : s.block = some b) (v : Word) (dir : AccessDir) :
    exec (.memAccess v dir) s = .next { s with block := some (b.memAccess v dir) } := by
  rw [exec, execMemAccess, State.onBlock_some s b _ hb, List.append_nil]

/-- An event of no memory operation, or of an address in `.text`, is ignored (R305). -/
theorem Block.memAccess_of_ignored {b : Block} {v : Word} (h : b.cur.direction = .noDirection ∨ InText b v)
    (dir : AccessDir) : b.memAccess v dir = b := by
  rcases b.memAccess_cases v dir with ⟨-, e⟩ | ⟨hmem, htext, -⟩ | ⟨hmem, htext, -⟩
  · exact e
  · exact (h.elim hmem htext).elim
  · exact (h.elim hmem htext).elim

/-- Any other write is counted and stores into the D-cache, and a miss is forwarded (R174, R305). -/
theorem Block.memAccess_write {b : Block} {v : Word} (hmem : b.cur.direction ≠ .noDirection) (htext : ¬InText b v) :
    b.memAccess v .write =
      { b with
        storeCount := b.storeCount + 1
        dcache := (b.dcache.store v).2
        l2 := if (b.dcache.store v).1 = .miss then (b.l2.store v).2 else b.l2 } := by
  rcases b.memAccess_cases v .write with ⟨hignored, -⟩ | ⟨-, -, -, e⟩ | ⟨-, -, hdir, -⟩
  · exact (hignored.elim hmem htext).elim
  · exact e
  · cases hdir

/-- Any other read is counted and loads from the D-cache, and a miss is forwarded (R173, R305). -/
theorem Block.memAccess_read {b : Block} {v : Word} (hmem : b.cur.direction ≠ .noDirection) (htext : ¬InText b v) :
    b.memAccess v .read =
      { b with
        loadCount := b.loadCount + 1
        dcache := (b.dcache.load v).2
        l2 := if (b.dcache.load v).1 = .miss then (b.l2.load v).2 else b.l2 } := by
  rcases b.memAccess_cases v .read with ⟨hignored, -⟩ | ⟨-, -, hdir, -⟩ | ⟨-, -, -, e⟩
  · exact (hignored.elim hmem htext).elim
  · cases hdir
  · exact e

/-- Settles O42: the event is ignored, or it is one counted operation of the D-cache with its forward to L2. -/
theorem memAccessEffect : Obligations.MemAccessEffect := by
  intro v dir s b hb
  have hignored (h : b.cur.direction = .noDirection ∨ InText b v) : exec (.memAccess v dir) s = .next s := by
    rw [exec_memAccess hb, Block.memAccess_of_ignored h, ← hb]
  refine ⟨fun hnone => hignored (.inl hnone), fun htext => hignored (.inr htext), fun hmem htext => ⟨?write, ?read⟩⟩
  case write => rw [exec_memAccess hb, Block.memAccess_write hmem htext]
  case read => rw [exec_memAccess hb, Block.memAccess_read hmem htext]

/-- A fill counts itself as a compulsory miss or an eviction and touches no counter of accesses (R134). -/
@[simp] theorem Cache.fill_loadHits (c : Cache) (row : Nat) (tag : Word) :
    (c.fill row tag).counters.loadHits = c.counters.loadHits := by
  rw [Cache.fill_eq]
  dsimp only
  split <;> rfl

@[simp] theorem Cache.fill_loadMisses (c : Cache) (row : Nat) (tag : Word) :
    (c.fill row tag).counters.loadMisses = c.counters.loadMisses := by
  rw [Cache.fill_eq]
  dsimp only
  split <;> rfl

@[simp] theorem Cache.fill_storeHits (c : Cache) (row : Nat) (tag : Word) :
    (c.fill row tag).counters.storeHits = c.counters.storeHits := by
  rw [Cache.fill_eq]
  dsimp only
  split <;> rfl

@[simp] theorem Cache.fill_storeMisses (c : Cache) (row : Nat) (tag : Word) :
    (c.fill row tag).counters.storeMisses = c.counters.storeMisses := by
  rw [Cache.fill_eq]
  dsimp only
  split <;> rfl

/-- A store and then a load of an absent line, where a store does not allocate: the store misses and fills nothing, so the
load misses too, and that one fills (R137, R138, R306). -/
theorem Cache.Sound.load_store_of_absent {c : Cache} (h : c.Sound) (hlive : c.live = true)
    (halloc : c.alloc = .noWriteAllocate) {a : Word} (habsent : ¬c.Resident (c.rowOf a) (c.tagOf a)) :
    ∃ c', ((c.store a).2.load a).2 = c'
      ∧ c'.counters.storeMisses = c.counters.storeMisses + 1 ∧ c'.counters.loadMisses = c.counters.loadMisses + 1
      ∧ c'.counters.storeHits = c.counters.storeHits ∧ c'.counters.loadHits = c.counters.loadHits
      ∧ ∃ w < c.assoc, c'.entry (c.rowOf a) w = { tag := c.tagOf a, valid := true } := by
  have hload (n : Counters) := Cache.load_of_not_resident (c := { c with counters := n }) hlive habsent
  rw [Cache.store_of_not_allocating hlive habsent halloc, hload]
  refine ⟨_, rfl, Cache.fill_storeMisses _ _ _, Cache.fill_loadMisses _ _ _, Cache.fill_storeHits _ _ _,
    Cache.fill_loadHits _ _ _, ?resident⟩
  case resident =>
    obtain ⟨w, hw, hentry⟩ := (h.fillable _).resident_fill (c.rowOf a) (c.tagOf a)
    exact ⟨w, by rwa [Cache.fill_assoc] at hw, hentry⟩

/-- Settles O47: the two events are a store and a load of the D-cache, which `load_store_of_absent` counts. -/
theorem swapOnAColdLineMissesTwice : Obligations.SwapOnAColdLineMissesTwice := by
  intro a s b hb hsound hlive halloc hswap htext hcold
  have hmem : b.cur.direction ≠ .noDirection := by
    rw [hswap]
    decide
  have hwrite := Block.memAccess_write hmem htext
  have hread : (b.memAccess a .write).memAccess a .read = _ :=
    Block.memAccess_read (by rwa [hwrite]) (by rwa [hwrite])
  have habsent : ¬b.dcache.Resident (b.dcache.rowOf a) (b.dcache.tagOf a) := fun ⟨w, hw, hentry⟩ => hcold w hw hentry
  obtain ⟨d, hd, hcounted⟩ := hsound.load_store_of_absent hlive halloc habsent
  refine ⟨_, _, _, exec_memAccess hb a .write, exec_memAccess rfl a .read, rfl, ?_⟩
  rw [hread, hwrite, hd]
  exact ⟨rfl, rfl, hcounted⟩

end Sys2Proof.Machine

/-! ### The counter laws under driver events (44_access_driver.md R312, 41_cache_hierarchy.md R179) -/

namespace Sys2Proof.Machine

/-- How many misses the result of an access is. -/
def Access.misses : Access → Nat
  | .hit => 0
  | .miss => 1

/-- A load of a live cache is one load, a hit or a miss as it answers (R137). -/
theorem Cache.load_counts {c : Cache} (hlive : c.live = true) (a : Word) :
    (c.load a).2.counters.loadHits + (c.load a).2.counters.loadMisses = c.counters.loadHits + c.counters.loadMisses + 1
    ∧ (c.load a).2.counters.loadMisses = c.counters.loadMisses + (c.load a).1.misses
    ∧ (c.load a).2.counters.storeHits = c.counters.storeHits
    ∧ (c.load a).2.counters.storeMisses = c.counters.storeMisses := by
  rcases c.load_cases a with ⟨hdead, -⟩ | ⟨-, -, e⟩ | ⟨-, -, e⟩
  · exact absurd hlive (by simp [hdead])
  · simp [e, Access.misses, Nat.add_right_comm]
  · simp [e, Access.misses, Nat.add_assoc]

/-- A store of a live cache is one store, a hit or a miss as it answers (R138). -/
theorem Cache.store_counts {c : Cache} (hlive : c.live = true) (a : Word) :
    (c.store a).2.counters.storeHits + (c.store a).2.counters.storeMisses
        = c.counters.storeHits + c.counters.storeMisses + 1
    ∧ (c.store a).2.counters.storeMisses = c.counters.storeMisses + (c.store a).1.misses
    ∧ (c.store a).2.counters.loadHits = c.counters.loadHits
    ∧ (c.store a).2.counters.loadMisses = c.counters.loadMisses := by
  rcases c.store_cases a with ⟨hdead, -⟩ | ⟨-, -, e⟩ | ⟨-, -, -, e⟩ | ⟨-, -, -, e⟩
  · exact absurd hlive (by simp [hdead])
  · simp [e, Access.misses, Nat.add_right_comm]
  · simp [e, Access.misses, Nat.add_assoc]
  · simp [e, Access.misses, Nat.add_assoc]

/-- L2 after the forward of a load that answered `r` (R172, R173): it loads once for a miss, and not for a hit. -/
theorem Cache.forwardLoad_counts {c : Cache} (hlive : c.live = true) (a : Word) (r : Access) :
    let c' := if r = .miss then (c.load a).2 else c
    c'.counters.loadHits + c'.counters.loadMisses = c.counters.loadHits + c.counters.loadMisses + r.misses
    ∧ c'.counters.storeHits = c.counters.storeHits ∧ c'.counters.storeMisses = c.counters.storeMisses := by
  cases r with
  | hit => exact ⟨rfl, rfl, rfl⟩
  | miss =>
    obtain ⟨hloads, -, hstoreHits, hstoreMisses⟩ := c.load_counts hlive a
    exact ⟨hloads, hstoreHits, hstoreMisses⟩

/-- L2 after the forward of a store that answered `r` (R174). -/
theorem Cache.forwardStore_counts {c : Cache} (hlive : c.live = true) (a : Word) (r : Access) :
    let c' := if r = .miss then (c.store a).2 else c
    c'.counters.storeHits + c'.counters.storeMisses = c.counters.storeHits + c.counters.storeMisses + r.misses
    ∧ c'.counters.loadHits = c.counters.loadHits ∧ c'.counters.loadMisses = c.counters.loadMisses := by
  cases r with
  | hit => exact ⟨rfl, rfl, rfl⟩
  | miss =>
    obtain ⟨hstores, -, hloadHits, hloadMisses⟩ := c.store_counts hlive a
    exact ⟨hstores, hloadHits, hloadMisses⟩

/-- A cache that is live was live before: nothing but its creation brings a cache to life (R25). -/
theorem Cache.Advances.live_of_live {c c' : Cache} (h : c.Advances c') (hlive : c'.live = true) : c.live = true := by
  by_contra hdead
  rw [h.dead (Bool.eq_false_iff.2 hdead)] at hlive
  cases hlive

/-- `b'` is a later state of `b` in which no counter has moved, neither the driver's nor a cache's. -/
structure Block.KeepsCounts (b b' : Block) : Prop where
  advances : b.Advances b'
  insnCount : b'.insnCount = b.insnCount
  loadCount : b'.loadCount = b.loadCount
  storeCount : b'.storeCount = b.storeCount
  counters : ∀ c, (b'.cache c).counters = (b.cache c).counters

theorem Block.CounterLaws.of_keepsCounts {b b' : Block} (h : b.CounterLaws) (hkeep : b.KeepsCounts b') :
    b'.CounterLaws := by
  obtain ⟨hadv, hinsn, hload, hstore, hcounters⟩ := hkeep
  intro hi hd hl
  have hicache : b'.icache.counters = b.icache.counters := hcounters .icache
  have hdcache : b'.dcache.counters = b.dcache.counters := hcounters .dcache
  have hl2 : b'.l2.counters = b.l2.counters := hcounters .l2
  rw [hinsn, hload, hstore, hicache, hdcache, hl2]
  exact h ((hadv.cache .icache).live_of_live hi) ((hadv.cache .dcache).live_of_live hd)
    ((hadv.cache .l2).live_of_live hl)

/-- The forward of a load leaves an L2 live that was live, and a dead one dead. -/
theorem Cache.forwardLoad_live (c : Cache) (a : Word) (r : Access) :
    (if r = .miss then (c.load a).2 else c).live = c.live := by
  split
  · exact c.load_live a
  · rfl

theorem Cache.store_live (c : Cache) (a : Word) : (c.store a).2.live = c.live := by
  rcases c.store_cases a with ⟨-, e⟩ | ⟨-, -, e⟩ | ⟨-, -, -, e⟩ | ⟨-, -, -, e⟩ <;> rw [e]
  exact Cache.fill_live _ _ _

theorem Cache.forwardStore_live (c : Cache) (a : Word) (r : Access) :
    (if r = .miss then (c.store a).2 else c).live = c.live := by
  split
  · exact c.store_live a
  · rfl

/-- The counted fetch is one load of I and its forward to L2 (R172, R302). -/
theorem Block.CounterLaws.countedFetch {b : Block} (h : b.CounterLaws) (v : Word) :
    (countedFetch b v).CounterLaws := by
  intro hi hd hl
  have hi : b.icache.live = true := (Cache.load_live _ v).symm.trans hi
  have hl : b.l2.live = true := (Cache.forwardLoad_live _ v _).symm.trans hl
  obtain ⟨hinsn, hload, hstore, hnoHits, hnoMisses, hl2Loads, hl2Stores⟩ := h hi hd hl
  have hfirst := Cache.load_counts hi v
  have hsecond := Cache.forwardLoad_counts hl v (b.icache.load v).1
  dsimp only [Machine.countedFetch] at hsecond ⊢
  omega

theorem Block.KeepsCounts.withInjState (b : Block) (inj : InjState) : b.KeepsCounts { b with injState := inj } :=
  ⟨⟨rfl, rfl, rfl, rfl, le_rfl, le_rfl, le_rfl, fun c => by cases c <;> exact .refl _⟩, rfl, rfl, rfl,
    fun c => by cases c <;> rfl⟩

theorem Block.KeepsCounts.withCur (b : Block) (r : Classification) : b.KeepsCounts { b with cur := r } :=
  ⟨b.advances_withCur r, rfl, rfl, rfl, fun c => by cases c <;> rfl⟩

/-- The fetch counts and loads, or does nothing (R302). -/
theorem Block.CounterLaws.fetch {b : Block} (h : b.CounterLaws) (v : Word) : (b.fetch v).1.CounterLaws := by
  rcases b.fetch_block v with e | ⟨inj, e⟩ <;> rw [e]
  · exact h
  · exact (h.countedFetch v).of_keepsCounts (.withInjState _ inj)

theorem Cache.invalidateBlock_counters (c : Cache) (row way : Nat) :
    (c.invalidateBlock row way).counters = c.counters := by
  rcases c.invalidateBlock_cases row way with ⟨-, -, -, e⟩ | ⟨-, e⟩ <;> rw [e]
  exact c.clearValid_counters row way

theorem Cache.invalidateAll_counters (c : Cache) : c.invalidateAll.counters = c.counters := by
  rcases c.invalidateAll_cases with ⟨-, e⟩ | ⟨-, e⟩ <;> rw [e]
  exact c.clearAllValid_counters

/-- A change of one cache that moves none of its counters. -/
theorem Block.KeepsCounts.withCache {b : Block} {c : CacheId} {v : Cache} (hadv : (b.cache c).Advances v)
    (hcounters : v.counters = (b.cache c).counters) : b.KeepsCounts (b.withCache c v) where
  advances := Block.advances_withCache hadv
  insnCount := b.withCache_insnCount c v
  loadCount := b.withCache_loadCount c v
  storeCount := b.withCache_storeCount c v
  counters := Block.withCache_cache_rel (R := fun k k' => k'.counters = k.counters) (fun _ => rfl) hcounters

/-- The cache-control part invalidates, and that counts nothing (R303, R304). -/
theorem Block.keepsCounts_cacheControl (b : Block) (g : Vector Word 16) : b.KeepsCounts (b.cacheControl g) := by
  rcases b.cacheControl_block g with ⟨-, row, way, e⟩ | ⟨-, e⟩ | e <;> rw [e]
  · exact .withCache (c := .dcache) (Cache.advances_invalidateBlock _ row way) (Cache.invalidateBlock_counters _ row way)
  · exact .withCache (c := .icache) (Cache.advances_invalidateAll _) (Cache.invalidateAll_counters _)
  · exact ⟨.refl b, rfl, rfl, rfl, fun _ => rfl⟩

/-- A word is classified, fetched and then acts on the caches without counting (R301). -/
theorem Block.CounterLaws.runWord {b : Block} (h : b.CounterLaws) (r : Classification) (v : Word)
    (g : Vector Word 16) : (b.runWord r v g).1.CounterLaws :=
  ((h.of_keepsCounts (.withCur b r)).fetch v).of_keepsCounts (Block.keepsCounts_cacheControl _ g)

theorem Block.CounterLaws.wrongSize {b : Block} (h : b.CounterLaws) (cond : BitVec 4) (v : Word) :
    (b.wrongSize cond v).1.CounterLaws :=
  (h.of_keepsCounts (.withCur b (.notMem cond))).fetch v

/-- A memory event is ignored, or it is counted with its one operation of D and the forward to L2 (R173, R174, R305). -/
theorem Block.CounterLaws.memAccess {b : Block} (h : b.CounterLaws) (v : Word) (dir : AccessDir) :
    (b.memAccess v dir).CounterLaws := by
  rcases b.memAccess_cases v dir with ⟨-, e⟩ | ⟨-, -, -, e⟩ | ⟨-, -, -, e⟩ <;> rw [e]
  · exact h
  · intro hi hd hl
    have hd : b.dcache.live = true := (Cache.store_live _ v).symm.trans hd
    have hl : b.l2.live = true := (Cache.forwardStore_live _ v _).symm.trans hl
    obtain ⟨hinsn, hload, hstore, hnoHits, hnoMisses, hl2Loads, hl2Stores⟩ := h hi hd hl
    have hfirst := Cache.store_counts hd v
    have hsecond := Cache.forwardStore_counts hl v (b.dcache.store v).1
    dsimp only at hsecond ⊢
    omega
  · intro hi hd hl
    have hd : b.dcache.live = true := (Cache.load_live _ v).symm.trans hd
    have hl : b.l2.live = true := (Cache.forwardLoad_live _ v _).symm.trans hl
    obtain ⟨hinsn, hload, hstore, hnoHits, hnoMisses, hl2Loads, hl2Stores⟩ := h hi hd hl
    have hfirst := Cache.load_counts hd v
    have hsecond := Cache.forwardLoad_counts hl v (b.dcache.load v).1
    dsimp only at hsecond ⊢
    omega

theorem Block.CounterLaws.loadPlan {b : Block} (h : b.CounterLaws) (n : Nat) (name : CacheName)
    (row way word : Nat) : (b.loadPlan n name row way word).1.CounterLaws := by
  obtain ⟨plan, e⟩ := b.loadPlan_block n name row way word
  rw [e]
  exact h

/-- After `Teardown` no cache is live, and the laws say nothing (R312, R384). -/
theorem Block.counterLaws_teardown (b : Block) : b.teardown.CounterLaws := by
  intro hi
  rw [Block.teardown_icache, Cache.teardown_live] at hi
  cases hi

theorem Cache.init_counters {cfg : CacheConfig} {seed0 : Word} {c : Cache} (h : Cache.init cfg seed0 = some c) :
    c.counters = .zero := by
  unfold Cache.init at h
  split at h
  · cases h
    rfl
  · cases h

/-- What `BlockInit` builds has every counter 0 (R50, R380). -/
theorem Block.init_counterLaws {cfg : BlockConfig} {b : Block} (h : Block.init cfg = some b) : b.CounterLaws := by
  obtain ⟨i, d, l, hi, hd, hl, rfl⟩ := Block.init_eq_some h
  intro _ _ _
  rw [Cache.init_counters hi, Cache.init_counters hd, Cache.init_counters hl]
  exact ⟨rfl, rfl, rfl, rfl, rfl, rfl, rfl⟩

/-- The instructions that an event decodes to: every one but the engine commands (R110). -/
inductive IsDriverEvent : Instr → Prop where
  | word {i : Instr} (r : Classification) (hrow : wordRecord i = some r) : IsDriverEvent i
  | blockInit (cfg : BlockConfig) : IsDriverEvent (.blockInit cfg)
  | insnExec (v : Word) (bytes : List Byte) (g : Vector Word 16) : IsDriverEvent (.insnExec v bytes g)
  | memAccess (v : Word) (dir : AccessDir) : IsDriverEvent (.memAccess v dir)
  | loadPlan (n : Nat) (name : CacheName) (row way word : Nat) : IsDriverEvent (.loadPlan n name row way word)
  | teardown : IsDriverEvent .blockTeardown

/-- An InsnExec event is the row of its word or, with bytes that are not four, the row InsnExec (R91, R301). -/
theorem isDriverEvent_decodeInsnExec (a : EventArgs) : IsDriverEvent (decodeInsnExec a) := by
  unfold decodeInsnExec
  split
  · exact .word _ (wordRecord_decodeWord _)
  · exact .insnExec _ _ _

theorem isDriverEvent_of_decode {code : BitVec 3} {a : EventArgs} {i : Instr}
    (h : decode (.event code a) = .instr i) : IsDriverEvent i := by
  rw [decode, decodeEvent] at h
  split_ifs at h <;> cases h
  · exact .blockInit _
  · exact isDriverEvent_decodeInsnExec a
  · exact .memAccess _ _
  · exact .loadPlan _ _ _ _ _
  · exact .teardown

/-- An operation of the block that keeps a property of it. -/
theorem State.onBlock_keeps {P : Block → Prop} {op : Block → Block × List Output} (hop : ∀ b, P b → P (op b).1)
    {s t : State} (hs : ∀ b, s.block = some b → P b) (h : s.onBlock op = .next t) : ∀ b, t.block = some b → P b := by
  obtain ⟨b, hb, rfl⟩ := State.onBlock_next h
  rintro _ ⟨⟩
  exact hop b (hs b hb)

theorem State.CounterLaws.onWord {s t : State} (hs : s.CounterLaws) {r : Classification} (h : s.onWord r = .next t) :
    t.CounterLaws :=
  State.onBlock_keeps (fun _ hb => hb.runWord r s.insnVaddr s.gpr) hs h

theorem State.CounterLaws.onWrongSize {s t : State} (hs : s.CounterLaws) (h : s.onWrongSize = .next t) :
    t.CounterLaws :=
  State.onBlock_keeps (s := { s with freeCount := s.freeCount + 1 }) (fun _ hb => hb.wrongSize _ s.insnVaddr) hs h

theorem State.CounterLaws.execBlockInit {s t : State} {cfg : BlockConfig} (h : execBlockInit cfg s = .next t) :
    t.CounterLaws := by
  rw [Machine.execBlockInit] at h
  split at h <;> cases h <;> rintro b ⟨⟩
  next hb => exact Block.init_counterLaws hb

/-- Every event keeps the counter laws: each acts on the block by an operation that does, or builds it anew. -/
theorem IsDriverEvent.counterLaws {i : Instr} (hi : IsDriverEvent i) {s t : State} (hs : s.CounterLaws)
    (h : exec i s = .next t) : t.CounterLaws := by
  cases hi with
  | word r hrow =>
    rw [exec_of_wordRecord hrow] at h
    exact hs.onWord h
  | blockInit cfg => exact .execBlockInit h
  | insnExec v bytes g =>
    have hports : State.CounterLaws { s with insnVaddr := v, gpr := g } := hs
    rcases execInsnExec_cases v bytes g s with ⟨b0, b1, b2, b3, -, e⟩ | ⟨-, e⟩ <;> rw [exec, e] at h
    · exact hports.onWord h
    · exact hports.onWrongSize h
  | memAccess v dir => exact State.onBlock_keeps (fun _ hb => hb.memAccess v dir) hs h
  | loadPlan n name row way word => exact State.onBlock_keeps (fun _ hb => hb.loadPlan n name row way word) hs h
  | teardown => exact State.onBlock_keeps (fun b _ => b.counterLaws_teardown) hs h

/-- Settles O51: an empty queue and a reserved code leave the block as it is, and every event keeps the laws. -/
theorem driverEventsKeepTheCounterLaws : Obligations.DriverEventsKeepTheCounterLaws := by
  intro s t hs hdriven h
  rcases step_cases h with ⟨-, rfl⟩ | ⟨q, rest, -, -, rfl⟩ | ⟨q, rest, i, hq, hdecode, hexec⟩
  · exact hs
  · exact hs
  · have hs' : (s.accept q rest).CounterLaws := by
      rwa [State.CounterLaws, State.accept_block]
    rw [State.DrivenByEvents, hq] at hdriven
    cases q with
    | command code a => exact hdriven.elim
    | event code a => exact (isDriverEvent_of_decode hdecode).counterLaws hs' hexec

end Sys2Proof.Machine

/-! ### LoadPlan (45_fault_injector.md R331, R353) -/

namespace Sys2Proof.Machine

/-- A plan that comes after the injector has fired is lost (R331). -/
theorem Block.loadPlan_of_fired {b : Block} (hfired : b.injState = .fired) (n : Nat) (name : CacheName)
    (row way word : Nat) : b.loadPlan n name row way word = (b, []) := by
  simp only [Block.loadPlan, hfired]

/-- A plan that the cache it names validates is stored, in the place of the old one (R331). -/
theorem Block.loadPlan_of_ok {b : Block} (harmed : b.injState = .armed) {name : CacheName} {row way word : Nat}
    (hok : (b.cache (planTarget name)).validateInjection row way word = .ok) (n : Nat) :
    b.loadPlan n name row way word =
      ({ b with plan := some { sleepCycles := n, target := planTarget name, row := row, way := way
                               wordInBlock := word } }, []) := by
  simp only [Block.loadPlan, harmed, hok]

/-- Any other plan is reported with what the validation says of it (R331, R353). -/
theorem Block.loadPlan_of_not_ok {b : Block} (harmed : b.injState = .armed) {name : CacheName} {row way word : Nat}
    {v : Validation} (hv : (b.cache (planTarget name)).validateInjection row way word = v) (hbad : v ≠ .ok) (n : Nat) :
    b.loadPlan n name row way word = (b, [.invalidInjection v]) := by
  cases v with
  | ok => exact absurd rfl hbad
  | rangeError => simp only [Block.loadPlan, harmed, hv]
  | invalidCache => simp only [Block.loadPlan, harmed, hv]

/-- LoadPlan acts through the block alone (R300, R331). -/
theorem exec_loadPlan {s : State} {b : Block} (hb : s.block = some b) {n : Nat} {name : CacheName}
    {row way word : Nat} {b' : Block} {out : List Output} (hload : b.loadPlan n name row way word = (b', out)) :
    exec (.loadPlan n name row way word) s = .next { s with block := some b', outputs := s.outputs ++ out } := by
  rw [exec, execLoadPlan, State.onBlock_some s b _ hb, hload]

theorem Cache.validateInjection_of_not_inRange {c : Cache} (hlive : c.live = true) {row way word : Nat}
    (hout : ¬(row < c.rows ∧ way < c.assoc ∧ word < c.blockSize / 4)) :
    c.validateInjection row way word = .rangeError := by
  rw [Cache.validateInjection_eq, if_neg (by simp [hlive]), if_neg hout]

/-- Settles O43: the injector's state and the validation of the plan choose one of the outcomes of `Block.loadPlan`. -/
theorem loadPlanEffect : Obligations.LoadPlanEffect := by
  intro n name row way word s b hb target k inRange
  refine ⟨fun hfired => ?lost, fun harmed hlive hin => ?stored, fun harmed hlive hout => ?outOfRange,
    fun harmed hdead => ?dead⟩
  case lost => rw [exec_loadPlan hb (Block.loadPlan_of_fired hfired ..), List.append_nil, ← hb]
  case stored =>
    have hok : k.validateInjection row way word = .ok := (k.validateInjection_ok row way word).2 ⟨hlive, hin⟩
    rw [exec_loadPlan hb (Block.loadPlan_of_ok harmed hok n), List.append_nil]
    rfl
  case outOfRange =>
    have hrange : k.validateInjection row way word = .rangeError := Cache.validateInjection_of_not_inRange hlive hout
    rw [exec_loadPlan hb (Block.loadPlan_of_not_ok harmed hrange (by simp) n), ← hb]
  case dead =>
    have hinvalid : k.validateInjection row way word = .invalidCache := Cache.validateInjection_of_dead hdead ..
    rw [exec_loadPlan hb (Block.loadPlan_of_not_ok harmed hinvalid (by simp) n), ← hb]

end Sys2Proof.Machine

/-! ### The injector's state machine (45_fault_injector.md R330, R333, R335, R336) -/

namespace Sys2Proof.Machine

@[simp] theorem noReport_nil : NoReport [] := by
  simp [NoReport]

@[simp] theorem noReport_cons (o : Output) (l : List Output) :
    NoReport (o :: l) ↔ (∀ n a ok, o ≠ .injectionReport n a ok) ∧ NoReport l := by
  simp only [NoReport, List.mem_cons, not_or, forall_and, ne_eq, eq_comm]

/-- `b'` has the injector's state and plan of `b`, and the count that the injector watches (R33, R333). -/
structure Block.KeepsInjector (b b' : Block) : Prop where
  injState : b'.injState = b.injState
  plan : b'.plan = b.plan
  insnCount : b'.insnCount = b.insnCount

theorem Block.KeepsInjector.refl (b : Block) : b.KeepsInjector b := ⟨rfl, rfl, rfl⟩

theorem Block.keepsInjector_withCache (b : Block) (c : CacheId) (v : Cache) : b.KeepsInjector (b.withCache c v) :=
  ⟨b.withCache_injState c v, b.withCache_plan c v, b.withCache_insnCount c v⟩

theorem Block.keepsInjector_teardown (b : Block) : b.KeepsInjector b.teardown := ⟨rfl, rfl, rfl⟩

/-- The cache-control part invalidates, and no more (R303, R304). -/
theorem Block.keepsInjector_cacheControl (b : Block) (g : Vector Word 16) : b.KeepsInjector (b.cacheControl g) := by
  rcases b.cacheControl_block g with ⟨-, row, way, e⟩ | ⟨-, e⟩ | e <;> rw [e]
  · exact b.keepsInjector_withCache _ _
  · exact b.keepsInjector_withCache _ _
  · exact .refl b

/-- A memory event is not counted as an instruction (R305). -/
theorem Block.keepsInjector_memAccess (b : Block) (v : Word) (dir : AccessDir) :
    b.KeepsInjector (b.memAccess v dir) := by
  rcases b.memAccess_cases v dir with ⟨-, e⟩ | ⟨-, -, -, e⟩ | ⟨-, -, -, e⟩ <;> rw [e]
  · exact .refl b
  · exact ⟨rfl, rfl, rfl⟩
  · exact ⟨rfl, rfl, rfl⟩

/-- The stored plan's count is reached by the next instruction counted (R333). -/
def Block.PlanDue (b : Block) : Prop := ∃ p, b.plan = some p ∧ p.sleepCycles ≤ b.insnCount + 1

/-- What an instruction that is no `BlockInit` can do to the injector, while it appends the outputs `new`: nothing is
counted; an instruction is counted, which finds no due plan or no armed injector; or the injector fires. -/
inductive Block.InjectorStep (b b' : Block) (new : List Output) : Prop where
  | idle (hinj : b'.injState = b.injState) (hplan : b.injState = .fired → b'.plan = b.plan)
    (hcount : b'.insnCount = b.insnCount) (hquiet : NoReport new)
  | counts (hinj : b'.injState = b.injState) (hplan : b'.plan = b.plan) (hcount : b'.insnCount = b.insnCount + 1)
    (hwaits : b.injState = .armed → ¬b.PlanDue) (hquiet : NoReport new)
  | fires (harmed : b.injState = .armed) (hdue : b.PlanDue) (hfired : b'.injState = .fired) (hplan : b'.plan = b.plan)
    (hcount : b'.insnCount = b.insnCount + 1)
    (hreport : ∃ l a ok, new = l ++ [.injectionReport b'.insnCount a ok] ∧ NoReport l)

theorem Block.KeepsInjector.injectorStep {b b' : Block} (h : b.KeepsInjector b') {new : List Output}
    (hquiet : NoReport new) : b.InjectorStep b' new :=
  .idle h.injState (fun _ => h.plan) h.insnCount hquiet

/-- What comes after the injector's step and is not for the injector changes nothing of it. -/
theorem Block.InjectorStep.keep {b b' b'' : Block} {new : List Output} (h : b.InjectorStep b' new)
    (hkeep : b'.KeepsInjector b'') : b.InjectorStep b'' new := by
  obtain ⟨hinj', hplan', hcount'⟩ := hkeep
  cases h with
  | idle hinj hplan hcount hquiet =>
    exact .idle (hinj'.trans hinj) (hplan'.trans ∘ hplan) (hcount'.trans hcount) hquiet
  | counts hinj hplan hcount hwaits hquiet =>
    exact .counts (hinj'.trans hinj) (hplan'.trans hplan) (hcount'.trans hcount) hwaits hquiet
  | fires harmed hdue hfired hplan hcount hreport =>
    rw [← hcount'] at hreport
    exact .fires harmed hdue (hinj'.trans hfired) (hplan'.trans hplan) (hcount'.trans hcount) hreport

/-- An output in front that is no injection report. -/
theorem Block.InjectorStep.cons {b b' : Block} {new : List Output} (h : b.InjectorStep b' new) {o : Output}
    (ho : ∀ n a ok, o ≠ .injectionReport n a ok) : b.InjectorStep b' (o :: new) := by
  cases h with
  | idle hinj hplan hcount hquiet => exact .idle hinj hplan hcount ((noReport_cons o new).2 ⟨ho, hquiet⟩)
  | counts hinj hplan hcount hwaits hquiet =>
    exact .counts hinj hplan hcount hwaits ((noReport_cons o new).2 ⟨ho, hquiet⟩)
  | fires harmed hdue hfired hplan hcount hreport =>
    obtain ⟨l, a, ok, rfl, hquiet⟩ := hreport
    exact .fires harmed hdue hfired hplan hcount ⟨o :: l, a, ok, rfl, (noReport_cons o l).2 ⟨ho, hquiet⟩⟩

/-! #### The fetch, case by case (R302, R333) -/

theorem fetchEffect_of_not_inText {b : Block} {v : Word} (h : ¬InText b v) : fetchEffect b v = (b, []) := by
  rw [fetchEffect, if_neg h]

/-- An armed injector whose plan is due fires and reports (R333, R335). -/
theorem fetchEffect_of_due {b : Block} {v : Word} (htext : InText b v) (harmed : b.injState = .armed) {p : Plan}
    (hplan : b.plan = some p) (hdue : p.sleepCycles ≤ b.insnCount + 1) :
    fetchEffect b v = ({ countedFetch b v with injState := .fired }, [reportOf (countedFetch b v) p]) := by
  simp only [fetchEffect, if_pos htext, harmed, hplan, if_pos hdue]

/-- Where no armed injector holds a due plan, the fetch counts and loads, and no more (R302, R333). -/
theorem fetchEffect_of_not_due {b : Block} {v : Word} (htext : InText b v)
    (hwaits : b.injState = .armed → ¬b.PlanDue) : fetchEffect b v = (countedFetch b v, []) := by
  rw [fetchEffect, if_pos htext]
  split
  next p harmed hplan => exact if_neg fun hdue => hwaits harmed ⟨p, hplan, hdue⟩
  next => rfl

/-- The fetch is the one place where the injector is notified (R302). -/
theorem Block.fetch_injectorStep (b : Block) (v : Word) : b.InjectorStep (b.fetch v).1 (b.fetch v).2 := by
  rw [Block.fetch_eq]
  by_cases htext : InText b v
  · by_cases hfires : b.injState = .armed ∧ b.PlanDue
    · obtain ⟨harmed, p, hplan, hdue⟩ := hfires
      rw [fetchEffect_of_due htext harmed hplan hdue]
      exact .fires harmed ⟨p, hplan, hdue⟩ rfl rfl rfl ⟨[], _, _, rfl, noReport_nil⟩
    · have hwaits := not_and.1 hfires
      rw [fetchEffect_of_not_due htext hwaits]
      exact .counts rfl rfl rfl hwaits noReport_nil
  · rw [fetchEffect_of_not_inText htext]
    exact (KeepsInjector.refl b).injectorStep noReport_nil

/-- The record in `cur` is not for the injector. -/
theorem Block.fetch_withCur_injectorStep (b : Block) (r : Classification) (v : Word) :
    b.InjectorStep (Block.fetch { b with cur := r } v).1 (Block.fetch { b with cur := r } v).2 := by
  rw [Block.fetch_withCur]
  exact (b.fetch_injectorStep v).keep ⟨rfl, rfl, rfl⟩

theorem Block.runWord_injectorStep (b : Block) (r : Classification) (v : Word) (g : Vector Word 16) :
    b.InjectorStep (b.runWord r v g).1 (b.runWord r v g).2 :=
  (b.fetch_withCur_injectorStep r v).keep (Block.keepsInjector_cacheControl _ g)

theorem Block.wrongSize_injectorStep (b : Block) (cond : BitVec 4) (v : Word) :
    b.InjectorStep (b.wrongSize cond v).1 (b.wrongSize cond v).2 :=
  (b.fetch_withCur_injectorStep (.notMem cond) v).cons (by simp)

/-- LoadPlan replaces the plan of an armed injector only, and what it reports is no injection (R331, R353). -/
theorem Block.loadPlan_injectorStep (b : Block) (n : Nat) (name : CacheName) (row way word : Nat) :
    b.InjectorStep (b.loadPlan n name row way word).1 (b.loadPlan n name row way word).2 := by
  rcases b.loadPlan_cases n name row way word with ⟨-, e⟩ | ⟨harmed, -, e⟩ | ⟨-, -, e⟩ <;> rw [e]
  · exact (KeepsInjector.refl b).injectorStep noReport_nil
  · exact .idle rfl (fun hfired => absurd (harmed.symm.trans hfired) (by simp)) rfl noReport_nil
  · exact (KeepsInjector.refl b).injectorStep (by simp)

/-- Every instruction but `BlockInit` takes one step of the injector. -/
theorem exec_injectorStep {i : Instr} {s t : State} {b : Block} (hb : s.block = some b) (h : exec i s = .next t)
    (hinit : ∀ cfg, i ≠ .blockInit cfg) :
    ∃ b' new, t.block = some b' ∧ t.outputs = s.outputs ++ new ∧ b.InjectorStep b' new := by
  have hsilent : s.outputs = s.outputs ++ [] := (List.append_nil _).symm
  have hcache (c : CacheId) (k : Cache) {new : List Output} (hquiet : NoReport new) :
      b.InjectorStep (b.withCache c k) new := (b.keepsInjector_withCache c k).injectorStep hquiet
  have hsame {new : List Output} (hquiet : NoReport new) : b.InjectorStep b new :=
    (Block.KeepsInjector.refl b).injectorStep hquiet
  rcases exec_cases hb h with ⟨r, -, rfl⟩ | ⟨v, b0, b1, b2, b3, g, -, rfl⟩ | ⟨v, bytes, g, -, -, rfl⟩
    | ⟨v, dir, -, rfl⟩ | ⟨n, name, row, way, word, -, rfl⟩ | ⟨-, rfl⟩ | ⟨cfg, hi, -⟩
    | ⟨c, cfg, -, ⟨-, rfl⟩ | ⟨k, -, rfl⟩⟩
    | ⟨c, a, -, rfl⟩ | ⟨c, a, -, rfl⟩ | ⟨c, row, way, -, rfl⟩ | ⟨c, -, rfl⟩ | ⟨c, -, rfl⟩ | ⟨o, ho, rfl, -⟩
  · exact ⟨_, _, rfl, rfl, b.runWord_injectorStep r _ _⟩
  · exact ⟨_, _, rfl, rfl, b.runWord_injectorStep _ v g⟩
  · exact ⟨_, _, rfl, rfl, b.wrongSize_injectorStep _ v⟩
  · exact ⟨_, [], rfl, hsilent, (b.keepsInjector_memAccess v dir).injectorStep noReport_nil⟩
  · exact ⟨_, _, rfl, rfl, b.loadPlan_injectorStep n name row way word⟩
  · exact ⟨_, [], rfl, hsilent, b.keepsInjector_teardown.injectorStep noReport_nil⟩
  · exact absurd hi (hinit cfg)
  · exact ⟨b, _, hb, rfl, hsame (by simp)⟩
  · exact ⟨_, [], rfl, hsilent, hcache c k noReport_nil⟩
  · exact ⟨_, _, rfl, rfl, hcache c _ (by simp)⟩
  · exact ⟨_, _, rfl, rfl, hcache c _ (by simp)⟩
  · exact ⟨_, [], rfl, hsilent, hcache c _ noReport_nil⟩
  · exact ⟨_, [], rfl, hsilent, hcache c _ noReport_nil⟩
  · exact ⟨_, [], rfl, hsilent, hcache c _ noReport_nil⟩
  · exact ⟨b, _, hb, rfl, hsame ((noReport_cons o []).2 ⟨ho, noReport_nil⟩)⟩

/-- Settles O46: an idle step counts nothing, a counting one finds no armed injector with a due plan, the third fires. -/
theorem injectorFiresOnce : Obligations.InjectorFiresOnce := by
  intro i s t b b' hb h hb' hinit
  obtain ⟨b'', new, hb'', hout, hstep⟩ := exec_injectorStep hb h hinit
  obtain rfl : b'' = b' := Option.some.inj (hb''.symm.trans hb')
  refine ⟨new, hout, ?_⟩
  cases hstep with
  | idle hinj hplan hcount hquiet =>
    refine ⟨fun hfired => ⟨hinj.trans hfired, hplan hfired, hquiet⟩,
      fun harmed => ⟨fun hdue => ?_, fun _ => ⟨hinj.trans harmed, hquiet⟩⟩⟩
    obtain ⟨hmoved, -⟩ := hdue
    omega
  | counts hinj hplan hcount hwaits hquiet =>
    refine ⟨fun hfired => ⟨hinj.trans hfired, hplan, hquiet⟩,
      fun harmed => ⟨fun hdue => ?_, fun _ => ⟨hinj.trans harmed, hquiet⟩⟩⟩
    rw [hcount] at hdue
    obtain ⟨-, hreached⟩ := hdue
    exact absurd hreached (hwaits harmed)
  | fires harmed hdue hfired hplan hcount hreport =>
    refine ⟨fun hfiredBefore => absurd (harmed.symm.trans hfiredBefore) (by simp),
      fun _ => ⟨fun _ => ⟨hfired, hplan, hreport⟩, fun hnotDue => ?_⟩⟩
    rw [hcount] at hnotDue
    exact absurd ⟨rfl, hdue⟩ hnotDue

end Sys2Proof.Machine

/-! ### The stored plan (45_fault_injector.md R331, R334) -/

namespace Sys2Proof.Machine

/-- A later state of a cache has its geometry (R20, R21). -/
theorem Cache.Advances.geometry {c c' : Cache} (h : c.Advances c') :
    c'.rows = c.rows ∧ c'.assoc = c.assoc ∧ c'.blockSize = c.blockSize := by
  rw [h.config]
  exact ⟨rfl, rfl, rfl⟩

/-- A plan in range stays in range while the caches keep their geometry. -/
theorem Block.PlanInRange.of_advances {b b' : Block} (h : b.PlanInRange) (hadv : b.Advances b')
    (hplan : b'.plan = b.plan) : b'.PlanInRange := by
  intro p hp
  obtain ⟨hrows, hassoc, hsize⟩ := (hadv.cache p.target).geometry
  rw [hrows, hassoc, hsize]
  exact h p (hplan ▸ hp)

theorem Block.fetch_plan (b : Block) (v : Word) : (b.fetch v).1.plan = b.plan := by
  rcases b.fetch_block v with e | ⟨inj, e⟩ <;> rw [e]
  rfl

/-- LoadPlan alone writes the plan (R33, R331). -/
theorem Block.Becomes.plan_eq_or_loadPlan {i : Instr} {b b' : Block} (h : b.Becomes i b') :
    b'.plan = b.plan ∨ ∃ n name row way word, b' = (b.loadPlan n name row way word).1 := by
  cases h with
  | runWord r v g => exact .inl ((Block.keepsInjector_cacheControl _ g).plan.trans (Block.fetch_plan _ v))
  | wrongSize cond v => exact .inl (Block.fetch_plan _ v)
  | memAccess v dir => exact .inl (b.keepsInjector_memAccess v dir).plan
  | loadPlan n name row way word => exact .inr ⟨n, name, row, way, word, rfl⟩
  | teardown => exact .inl b.keepsInjector_teardown.plan
  | cacheLoad c a => exact .inl (b.withCache_plan c _)
  | cacheStore c a => exact .inl (b.withCache_plan c _)
  | cacheInvalidateBlock c row way => exact .inl (b.withCache_plan c _)
  | cacheInvalidateAll c => exact .inl (b.withCache_plan c _)
  | cacheTeardown c => exact .inl (b.withCache_plan c _)
  | probe => exact .inl rfl

/-- LoadPlan stores a plan only after the cache it names has validated it (R143, R331). -/
theorem Block.PlanInRange.loadPlan {b : Block} (h : b.PlanInRange) (n : Nat) (name : CacheName)
    (row way word : Nat) : (b.loadPlan n name row way word).1.PlanInRange := by
  rcases b.loadPlan_cases n name row way word with ⟨-, e⟩ | ⟨-, hok, e⟩ | ⟨-, -, e⟩ <;> rw [e]
  · exact h
  · rintro p ⟨⟩
    exact ((Cache.validateInjection_ok _ row way word).1 hok).2
  · exact h

theorem Block.Becomes.planInRange {i : Instr} {b b' : Block} (h : b.Becomes i b') (hb : b.PlanInRange) :
    b'.PlanInRange := by
  rcases h.plan_eq_or_loadPlan with hplan | ⟨n, name, row, way, word, rfl⟩
  · exact hb.of_advances h.advances hplan
  · exact hb.loadPlan n name row way word

/-- What `BlockInit` builds holds no plan (R50, R380). -/
theorem execBlockInit_planInRange {cfg : BlockConfig} {s t : State} (h : execBlockInit cfg s = .next t) :
    t.PlanInRange := by
  rw [execBlockInit] at h
  split at h <;> cases h <;> rintro b ⟨⟩
  next hnew =>
    obtain ⟨_, _, _, -, -, -, rfl⟩ := Block.init_eq_some hnew
    rintro p ⟨⟩

/-- Settles O53: `BlockInit` starts without a plan, and every other instruction keeps the geometry of the caches and
stores validated plans only. -/
theorem storedPlanStaysInRange : Obligations.StoredPlanStaysInRange := by
  intro i s t hnoInit hs h
  cases hi : createsCache i with
  | true =>
    rcases (createsCache_iff i).1 hi with ⟨c, cfg, rfl⟩ | ⟨cfg, rfl⟩
    · exact absurd rfl (hnoInit c cfg)
    · exact execBlockInit_planInRange h
  | false =>
    have hnoBlockInit : ∀ cfg, i ≠ .blockInit cfg := by
      rintro cfg rfl
      cases hi
    obtain ⟨b, hb⟩ := exec_next_block hnoBlockInit h
    obtain ⟨b', hb', hbecomes⟩ := exec_becomes hb h hi
    intro b'' hb''
    obtain rfl : b' = b'' := Option.some.inj (hb'.symm.trans hb'')
    exact hbecomes.planInRange (hs b hb)

end Sys2Proof.Machine

/-! ### The error kinds and the outputs that report them (R350 to R355) -/

namespace Sys2Proof.Machine

/-- The outputs that report an error, each with its kind (R351 to R354). No constructor reports PostTeardown (R355). -/
inductive Output.Reports : Output → ErrorKind → Prop
  | configError : Output.Reports .configError .configError
  | sizeMismatch (v : Word) : Output.Reports (.sizeMismatch v) .sizeMismatch
  | invalidInjection (v : Validation) : Output.Reports (.invalidInjection v) .invalidInjection
  | invalidSlot (n : Nat) (a : Word) : Output.Reports (.injectionReport n a false) .invalidSlot

/-- An output that reports a kind is one of four. -/
theorem Output.reports_of_errorKind {o : Output} {k : ErrorKind} (h : o.errorKind = some k) : o.Reports k := by
  cases o with
  | configError => cases h; exact .configError
  | sizeMismatch v => cases h; exact .sizeMismatch v
  | invalidInjection v => cases h; exact .invalidInjection v
  | injectionReport n a slotValid =>
    cases slotValid with
    | true => cases h
    | false => cases h; exact .invalidSlot n a
  | access _ | address _ | flag _ | validation _ | counters _ => cases h

theorem Output.errorKind_eq_some_iff {o : Output} {k : ErrorKind} : o.errorKind = some k ↔ o.Reports k := by
  refine ⟨Output.reports_of_errorKind, fun h => ?_⟩
  cases h <;> rfl

/-- Settles O59: for each kind, the constructors of `Output.Reports` that end in it. -/
theorem errorKindsAndTheirReports : Obligations.ErrorKindsAndTheirReports := by
  unfold Obligations.ErrorKindsAndTheirReports
  simp only [ne_eq, Output.errorKind_eq_some_iff]
  refine ⟨rfl, fun o => ⟨fun h => ?_, ?_⟩, fun o => ⟨fun h => ?_, ?_⟩, fun o => ⟨fun h => ?_, ?_⟩,
    fun o => ⟨fun h => ?_, ?_⟩, fun o h => ?_⟩
  · cases h with | configError => rfl
  · rintro rfl; exact .configError
  · cases h with | sizeMismatch v => exact ⟨v, rfl⟩
  · rintro ⟨v, rfl⟩; exact .sizeMismatch v
  · cases h with | invalidInjection v => exact ⟨v, rfl⟩
  · rintro ⟨v, rfl⟩; exact .invalidInjection v
  · cases h with | invalidSlot n a => exact ⟨n, a, rfl⟩
  · rintro ⟨n, a, rfl⟩; exact .invalidSlot n a
  · cases h

end Sys2Proof.Machine

/-! ### Without a block (70_reset_and_hazards.md R383, 93_implementation_defined.md U14) -/

namespace Sys2Proof.Machine

/-- InsnExec of any number of bytes acts through the block and stops where none exists (R383). -/
theorem execInsnExec_of_noBlock {s : State} (hnone : s.block = none) (v : Word) (bytes : List Byte)
    (g : Vector Word 16) : execInsnExec v bytes g s = .fault .noBlock := by
  rcases execInsnExec_cases v bytes g s with ⟨b0, b1, b2, b3, -, hword⟩ | ⟨-, hsize⟩
  · rw [hword]
    exact State.onBlock_none { s with insnVaddr := v, gpr := g } _ hnone
  · rw [hsize]
    exact State.onBlock_none { s with insnVaddr := v, gpr := g, freeCount := s.freeCount + 1 } _ hnone

/-- Settles O9: every instruction but BlockInit is an operation of the block, InsnExec after setting the port lines. -/
theorem withoutABlockOnlyBlockInitRuns : Obligations.WithoutABlockOnlyBlockInitRuns := by
  intro i s hnone hinit
  by_cases hinsn : ∃ v bytes g, i = .insnExec v bytes g
  · obtain ⟨v, bytes, g, rfl⟩ := hinsn
    exact execInsnExec_of_noBlock hnone v bytes g
  · obtain ⟨op, hop⟩ := exec_eq_onBlock hinit (fun v bytes g hi => hinsn ⟨v, bytes, g, hi⟩) s
    rw [hop, State.onBlock_none s op hnone]

end Sys2Proof.Machine

/-! ### BlockInit (70_reset_and_hazards.md R380, R381, R383) -/

namespace Sys2Proof.Machine

/-- BlockInit puts the block it built in the place of the old one (R380). -/
theorem exec_blockInit_of_some {cfg : BlockConfig} {b : Block} (hinit : Block.init cfg = some b) (s : State) :
    exec (.blockInit cfg) s = .next { s with block := some b } := by
  rw [exec, execBlockInit, hinit]

/-- BlockInit that builds no block reports ConfigError and removes the old one (R178, R380). -/
theorem exec_blockInit_of_none {cfg : BlockConfig} (hinit : Block.init cfg = none) (s : State) :
    exec (.blockInit cfg) s = .next { s with block := none, outputs := s.outputs ++ [.configError] } := by
  rw [exec, execBlockInit, hinit]

/-- Settles O40: BlockInit builds its block from three successful `init`s, and none where one of them fails. -/
theorem blockInitBuildsTheBlock : Obligations.BlockInitBuildsTheBlock := by
  intro cfg s good zero fresh made
  have hfresh {c : CacheConfig} (hc : GoodConfig c) (seed : Word) : Cache.init c seed = some (fresh c seed) := by
    rw [Cache.init, if_pos ((configValid_iff c).2 hc), ReplState.initial_eq]
    rfl
  constructor
  · rintro ⟨hicache, hdcache, hl2⟩
    have hmade : Block.init cfg = some made := by
      rw [Block.init, hfresh hicache, hfresh hdcache, hfresh hl2]
      rfl
    exact exec_blockInit_of_some hmade s
  · intro hbad
    exact exec_blockInit_of_none ((Block.init_eq_none cfg).2 hbad) s

end Sys2Proof.Machine

/-! ### Teardown and what comes after it (70_reset_and_hazards.md R384, 44_access_driver.md R312) -/

namespace Sys2Proof.Machine

/-- Teardown acts through the block alone and has no output (R384). -/
theorem exec_blockTeardown {s : State} {b : Block} (hb : s.block = some b) :
    exec .blockTeardown s = .next { s with block := some b.teardown } := by
  rw [exec, execBlockTeardown, State.onBlock_some s b _ hb, List.append_nil]

/-- A block whose caches are torn down stays as it is (R384). -/
theorem Block.teardown_of_dead {b : Block} (hicache : b.icache.live = false) (hdcache : b.dcache.live = false)
    (hl2 : b.l2.live = false) : b.teardown = b := by
  rw [Block.teardown, Cache.teardown_of_dead hicache, Cache.teardown_of_dead hdcache, Cache.teardown_of_dead hl2]

/-- Settles O44: a second Teardown finds the three caches dead. -/
theorem teardownEventEffect : Obligations.TeardownEventEffect := by
  intro s b hb t
  have ht : t.block = some b.teardown := rfl
  refine ⟨exec_blockTeardown hb, ?again⟩
  case again => rw [exec_blockTeardown ht, Block.teardown_of_dead rfl rfl rfl, ← ht]

/-- The fetch leaves a torn-down cache as it is (R145, R302). -/
theorem Block.fetch_cache_of_dead {b : Block} {c : CacheId} (hdead : (b.cache c).live = false) (v : Word) :
    (b.fetch v).1.cache c = b.cache c := by
  rcases b.fetch_cache v c with e | e
  · exact e
  · rw [e, Cache.load_of_dead hdead]

/-- The cache-control part leaves a torn-down cache as it is (R145, R303, R304). -/
theorem Block.cacheControl_cache_of_dead {b : Block} {c : CacheId} (hdead : (b.cache c).live = false)
    (g : Vector Word 16) : (b.cacheControl g).cache c = b.cache c := by
  have hone {d : CacheId} {k : Cache} (hk : (b.cache d).live = false → k = b.cache d) :
      (b.withCache d k).cache c = b.cache c :=
    Block.withCache_cache_rel (R := fun old new => old.live = false → new = old) (fun _ _ => rfl) hk c hdead
  rcases b.cacheControl_block g with ⟨-, row, way, e⟩ | ⟨-, e⟩ | e <;> rw [e]
  · exact hone fun hdcache => Cache.invalidateBlock_of_dead hdcache row way
  · exact hone Cache.invalidateAll_of_dead

/-- A word row leaves a torn-down cache as it is (R145, R301). -/
theorem Block.runWord_cache_of_dead {b : Block} {c : CacheId} (hdead : (b.cache c).live = false) (r : Classification)
    (v : Word) (g : Vector Word 16) : (b.runWord r v g).1.cache c = b.cache c := by
  have hcur : ({ b with cur := r } : Block).cache c = b.cache c := by cases c <;> rfl
  have hfetch : (Block.fetch { b with cur := r } v).1.cache c = b.cache c := by
    rw [Block.fetch_cache_of_dead (by rwa [hcur]), hcur]
  rw [Block.runWord, Block.cacheControl_cache_of_dead (by rwa [hfetch]), hfetch]

/-- The fetch counts in `.text`, live caches or not (R302, R312). -/
@[simp] theorem fetchEffect_insnCount (b : Block) (v : Word) :
    (fetchEffect b v).1.insnCount = if InText b v then b.insnCount + 1 else b.insnCount := by
  by_cases htext : InText b v
  · rw [if_pos htext, fetchEffect, if_pos htext]
    split
    · split <;> rfl
    · rfl
  · rw [if_neg htext, fetchEffect_of_not_inText htext]

/-- A word row counts in `.text`, and its cache-control part counts nothing (R301, R312). -/
theorem Block.runWord_insnCount (b : Block) (r : Classification) (v : Word) (g : Vector Word 16) :
    (b.runWord r v g).1.insnCount = if InText b v then b.insnCount + 1 else b.insnCount := by
  rw [Block.runWord, (Block.keepsInjector_cacheControl _ g).insnCount, Block.fetch_eq, fetchEffect_insnCount]

/-- With the D-cache and L2 torn down a write is counted and nothing else (R145, R305). -/
theorem Block.memAccess_write_of_dead {b : Block} {v : Word} (hmem : b.cur.direction ≠ .noDirection)
    (htext : ¬InText b v) (hdcache : b.dcache.live = false) (hl2 : b.l2.live = false) :
    b.memAccess v .write = { b with storeCount := b.storeCount + 1 } := by
  rw [Block.memAccess_write hmem htext, Cache.store_of_dead hdcache, Cache.store_of_dead hl2, ite_self]

/-- With the D-cache and L2 torn down a read is counted and nothing else (R145, R305). -/
theorem Block.memAccess_read_of_dead {b : Block} {v : Word} (hmem : b.cur.direction ≠ .noDirection)
    (htext : ¬InText b v) (hdcache : b.dcache.live = false) (hl2 : b.l2.live = false) :
    b.memAccess v .read = { b with loadCount := b.loadCount + 1 } := by
  rw [Block.memAccess_read hmem htext, Cache.load_of_dead hdcache, Cache.load_of_dead hl2, ite_self]

/-- Settles O45: a word row runs its record, which counts and leaves each dead cache alone; a memory event is counted. -/
theorem driverCountsOnAfterTeardown : Obligations.DriverCountsOnAfterTeardown := by
  intro s b hb hicache hdcache hl2
  refine ⟨fun i hi => ?wordRow, fun v hmem htext => ⟨?write, ?read⟩⟩
  case wordRow =>
    obtain ⟨r, hr⟩ := Option.isSome_iff_exists.1 ((wordRecord_isSome i).trans hi)
    have hexec : exec i s = _ := (exec_of_wordRecord hr s).trans (State.onBlock_some s b _ hb)
    exact ⟨_, _, hexec, rfl, b.runWord_insnCount r _ _, b.runWord_cache_of_dead (c := .icache) hicache r _ _,
      b.runWord_cache_of_dead (c := .dcache) hdcache r _ _, b.runWord_cache_of_dead (c := .l2) hl2 r _ _⟩
  case write => rw [exec_memAccess hb, Block.memAccess_write_of_dead hmem htext hdcache hl2]
  case read => rw [exec_memAccess hb, Block.memAccess_read_of_dead hmem htext hdcache hl2]

end Sys2Proof.Machine
